-- ==== Sys2Proof/Word.lean ====
section
/-! DEFINITION. The two widths of the host window: 32-bit words (R50, R53) and 8-bit bytes (R9). -/

namespace Sys2Proof

/-- A word: 32 bits (R9). Pixel values, command words and registers are words. -/
abbrev Word := BitVec 32

/-- A byte: 8 bits (R9). -/
abbrev Byte := BitVec 8

end Sys2Proof
end

