-- ==== Sys2Proof/Syntax.lean ====
section
/-! DEFINITION. The commands of the engine (R72): one constructor per row of opcode_table.json. -/

namespace Sys2Proof

/-- A command (R72). The operand of a command that has one is the 8-bit field ARG (R71). -/
inductive Instr where
  | nop
  | run
  | clear
  | chkdim
  | validate (t : BitVec 8)    -- tile position
  | register (t : BitVec 8)    -- tile position
  | encode   (id : BitVec 8)   -- registry ID
  | classify (b : BitVec 8)    -- block number
  | packattr (k : BitVec 8)    -- super-block number
  | pack8
  deriving DecidableEq, Repr

end Sys2Proof
end

