-- ==== Sys2Proof/WellFormed.lean ====
section
/-! DEFINITION. Which commands the decoder can give (R75, R77): the operand ranges decidable from the word alone. -/

namespace Sys2Proof

/-- R75: "CLASSIFY with `b >= 64`, PACKATTR with `s >= 16`" are outside the range the operation accepts, and this is
"decidable from the word alone"; every other operand value is legal in the word. -/
def Instr.wf : Instr → Bool
  | .nop | .run | .clear | .chkdim | .pack8 => true
  | .validate _ | .register _ | .encode _ => true
  | .classify b => decide (b.toNat < 64)
  | .packattr k => decide (k.toNat < 16)

end Sys2Proof
end

