-- ==== Sys2Proof/Decode.lean ====
section
/-! DEFINITION. The decoder of R77, total on every 32-bit word, and the encoder of R73. -/

namespace Sys2Proof

/-- What a command word decodes to (R77). -/
inductive Decoded where
  | command (i : Instr)
  | illegalCommand
  | illegalOperand (a : BitVec 8)
  deriving DecidableEq, Repr

/-- OP, bits 3:0 (R70). -/
def opField (w : Word) : BitVec 4 := w.extractLsb' 0 4

/-- RSV0, bits 7:4 (R70). -/
def rsv0Field (w : Word) : BitVec 4 := w.extractLsb' 4 4

/-- ARG, bits 15:8 (R70, R71). -/
def argField (w : Word) : BitVec 8 := w.extractLsb' 8 8

/-- RSV1, bits 31:16 (R70). -/
def rsv1Field (w : Word) : BitVec 16 := w.extractLsb' 16 16

/-- A command without operand: its ARG must be 0 (R71, R74). -/
def decodeBare (arg : BitVec 8) (i : Instr) : Decoded :=
  if arg = 0 then .command i else .illegalCommand

/-- `decode` of R77. -/
def decode (w : Word) : Decoded :=
  let arg := argField w
  if rsv0Field w ≠ 0 ∨ rsv1Field w ≠ 0 then .illegalCommand
  else
    match (opField w).toNat with
    | 0x0 => decodeBare arg .nop
    | 0x1 => decodeBare arg .run
    | 0x2 => decodeBare arg .clear
    | 0x3 => decodeBare arg .chkdim
    | 0x4 => .command (.validate arg)
    | 0x5 => .command (.register arg)
    | 0x6 => .command (.encode arg)
    | 0x7 => if arg.toNat < 64 then .command (.classify arg) else .illegalOperand arg
    | 0x8 => if arg.toNat < 16 then .command (.packattr arg) else .illegalOperand arg
    | 0x9 => decodeBare arg .pack8
    | _ => .illegalCommand

/-- The word `OP | (a << 8)` (R73): OP and ARG in their places of R70, the reserved fields 0. -/
def commandWord (op : BitVec 4) (arg : BitVec 8) : Word := op.setWidth 32 ||| (arg.setWidth 32 <<< 8)

/-- The word of a command (R72, R73). -/
def encode : Instr → Word
  | .nop        => commandWord 0x0 0
  | .run        => commandWord 0x1 0
  | .clear      => commandWord 0x2 0
  | .chkdim     => commandWord 0x3 0
  | .validate t => commandWord 0x4 t
  | .register t => commandWord 0x5 t
  | .encode id  => commandWord 0x6 id
  | .classify b => commandWord 0x7 b
  | .packattr k => commandWord 0x8 k
  | .pack8      => commandWord 0x9 0

/-- The command this decoder reads from a row of opcode_table.json: every row is one 32-bit word (R70, R78), which is
written to CMD whole. -/
def decodeTableWord (_nbits w : Nat) : Option Instr :=
  if w < 2 ^ 32 then
    match decode (BitVec.ofNat 32 w) with
    | .command i => some i
    | .illegalCommand | .illegalOperand _ => none
  else none

end Sys2Proof
end

