-- ==== Sys2Proof/Config.lean ====
section
/-! DEFINITION. What is fixed for one machine: the colour table's shape (R38, R100) and the open parameters of
R8, and the free values of R45, R62 and R102. An open parameter or free value is an `opaque` constant, so no proof can
see its value. -/

namespace Sys2Proof

/-- The six colours, in the order of R100. -/
inductive Colour where
  | grey | black | lgreen | dgreen | white | pink
  deriving DecidableEq, Repr

/-- The pixel values of the six colours (R100). They are pairwise distinct: "A model whose parameters are not pairwise
distinct is outside this spec", so no such table can be built (U7). The field defaults only witness that a table
exists; `Config.colours` hides them (log 1). -/
structure ColourTable where
  grey   : Word := 0
  black  : Word := 1
  lgreen : Word := 2
  dgreen : Word := 3
  white  : Word := 4
  pink   : Word := 5
  distinct : [grey, black, lgreen, dgreen, white, pink].Nodup := by decide
  deriving DecidableEq, Repr, Inhabited

/-- `PIX_GREY` … `PIX_PINK` (R8, D9): open parameters of the machine (log 1). -/
opaque Config.colours : ColourTable

/-- `BASE / 0x20000` (R8, D4): where the window stands on the host's bus (log 16). -/
opaque Config.baseIndex : Nat

/-- `LATENCY` (R8, R250): how many host moves come between the acceptance of a command and its completion; one fresh
draw per accepted command (log 8). -/
opaque Config.latency : Nat → Nat

/-- What a host read of an engine output returns while BUSY (R62, U2): one fresh draw per read (log 9). -/
opaque Config.busyRead : Nat → Word

/-- What a PIXMEM word holds that was not written since reset number `r` (R45, U1): `unwrittenPixel r i` for word
`i`, fixed until the word is written (log 5). -/
opaque Config.unwrittenPixel : Nat → Nat → Word

/-- The palette slot of a word that is no colour: R102 defines `slot(v)` only when `known(v)` (log 14). -/
opaque Config.unknownSlot : Word → BitVec 2

end Sys2Proof
end

