-- ==== Sys2Proof/Machine/State.lean ====
section
/-! DEFINITION. The machine's state (10_state.md), the reasons a step can stop, and the state after reset (R42). -/

namespace Sys2Proof.Machine

/-- The bytes of the host window that are memory: PIXMEM, NT, AT and PT (R52), by window offset. Strictly rising
offsets, no cell equal to what an unlisted offset reads as (Machine/Memory.lean). -/
abbrev Memory := List Host.Cell

/-- A tile: "an ordered sequence of exactly 64 pixel values, row-major within an 8×8 region" (R12, R24). -/
abbrev Tile := Vector Word 64

/-- STATUS.STATE (R26). -/
inductive EngineState where
  | idle | busy | done | error
  deriving DecidableEq, Repr

/-- The error codes of R200; codes 7 to 15 are never written (U12), so they have no constructor. -/
inductive ErrCode where
  | noError | dimension | unknownColor | malformedBitGroup | illegalCommand | illegalOperand | registryFull
  deriving DecidableEq, Repr

/-- The fields of ERR (R28). -/
structure ErrRecord where
  code  : ErrCode
  sub   : BitVec 1
  infoA : BitVec 8
  infoB : BitVec 6
  deriving DecidableEq, Repr

/-- ERR = 0 (R28: "0 = no error"). -/
def ErrRecord.zero : ErrRecord := ⟨.noError, 0, 0, 0⟩

/-- A byte offset from BASE inside the 0x20000-byte window (R50, R52). -/
abbrev Offset := BitVec 17

/-- What the host does to the block (R50, R83, R230). -/
inductive HostMove where
  | read (off : Offset)              -- HostRead(off)
  | write (off : Offset) (v : Word)  -- HostWrite(off, v)
  | poll                             -- read STATUS until it is not BUSY (R83)
  | reset                            -- the reset input (R230)
  deriving DecidableEq, Repr

/-- The places of the address map (R52). -/
inductive Port where
  | pixmem (i : Nat)   -- word i of PIXMEM
  | cmd | status | err | errCmd | gridDim | distinct | ptLen | result | bgLen
  | bgElem (k : Fin 4)
  | bpLo | bpHi
  | ntWord (k : Nat)   -- word k of NT
  | atWord (k : Nat)   -- word k of AT
  | ptWord (k : Nat)   -- word k of PT
  | reserved
  deriving DecidableEq, Repr

/-- Why the machine stops. -/
inductive Fault where
  /-- Raised by VALIDATE, REGISTER, CLASSIFY and RUN when they read PIXMEM word `i`, which the host has not written
  since reset (R45: "A model shall treat a read of such a word by the engine as a fault of the model
  (`UnwrittenInput`), not as a value"). Safe (log 3). -/
  | unwrittenInput (i : Nat)
  deriving DecidableEq, Repr

/-- Why a command has no meaning. -/
inductive Refusal where
  /-- Of the form the host fixes; no arm of exec answers it, since every command has its meaning. Safe. -/
  | notModelled (mnemonic : String)
  deriving DecidableEq, Repr

/-- Why a command does not have its effect: it raises an error of the engine (R200, R206), or the model faults. -/
inductive Stop where
  | error (e : ErrRecord)
  | fault (f : Fault)
  deriving DecidableEq, Repr

/-- The state of the block. The last five fields are the model's own (log 5, 8, 9, 10, 15). -/
@[ext]
structure State where
  mem      : Memory          -- PIXMEM (R23), NT, PT, AT (R25)
  bp       : BitVec 64       -- BP[0..63] (R25)
  regTile  : List Tile       -- REG_TILE[0 .. REG_COUNT-1] (R24); REG_COUNT is its length
  engine   : EngineState     -- STATUS.STATE (R26)
  dropped  : Bool            -- STATUS.DROPPED (R26)
  err      : ErrRecord       -- ERR (R28)
  errCmd   : Word            -- ERR_CMD (R29)
  gridDim  : Word            -- GRID_DIM (R30)
  result   : BitVec 9        -- RESULT (R33)
  bgLen    : BitVec 8        -- BG_LEN (R34)
  bgElem   : Vector Word 4   -- BG_ELEM0..3 (R35)
  inflight : Word            -- INFLIGHT (R41)
  colours  : ColourTable     -- the colour table (R38)
  inbox    : List HostMove   -- the host's coming moves, first one first
  reads    : List Word       -- what host reads returned, newest first
  latencyLeft : Nat          -- host moves left before the command in flight completes
  draws    : Nat             -- free values drawn so far
  resets   : Nat             -- hardware resets so far
  deriving DecidableEq, Repr

/-- The state after reset (R42). INFLIGHT, which R42 leaves unspecified and no rule reads, is 0 (DESIGN CHOICE, log 6);
the model's own fields are empty and 0 (log 5, 8, 9, 10, 15). -/
def State.reset : State where
  mem      := []
  bp       := 0
  regTile  := []
  engine   := .idle
  dropped  := false
  err      := ErrRecord.zero
  errCmd   := 0
  gridDim  := 0
  result   := 0
  bgLen    := 0
  bgElem   := Vector.replicate 4 0
  inflight := 0
  colours  := Config.colours
  inbox    := []
  reads    := []
  latencyLeft := 0
  draws    := 0
  resets   := 0

/-- `REG_COUNT` (R24): how many tiles are registered (log 7). -/
def State.regCount (s : State) : Nat := s.regTile.length

end Sys2Proof.Machine
end

