-- ==== Sys2Proof/Machine/Memory.lean ====
section
/-! DEFINITION. Memory: one sorted list of (window offset, byte) cells for PIXMEM, NT, AT and PT, in one canonical
form, and the packing of bytes in words (R56). -/

namespace Sys2Proof.Machine

/-- Offset of NT[0] (R52). -/
abbrev ntBase : Nat := 0x10100

/-- Offset of AT[0] (R52). -/
abbrev atBase : Nat := 0x10200

/-- Offset of PT[0] (R52). -/
abbrev ptBase : Nat := 0x11000

/-- What an unlisted offset reads as: nothing in PIXMEM, whose reset value is unspecified (R45); zero elsewhere, the
reset value of NT, PT and AT (R42; log 13). -/
def Memory.unlisted (a : Nat) : Option Byte := if a < 0x10000 then none else some 0

/-- The byte at an offset; `none`: never written since reset. -/
def Memory.read (m : Memory) (a : Nat) : Option Byte :=
  match m with
  | [] => Memory.unlisted a
  | (x, b) :: rest => if x = a then some b else Memory.read rest a

/-- The list with the cell `(a, b)` in its place, for a byte that is not what an unlisted offset reads as. -/
def Memory.put (m : Memory) (a : Nat) (b : Byte) : Memory :=
  match m with
  | [] => [(a, b)]
  | (x, c) :: rest =>
    if x < a then (x, c) :: Memory.put rest a b
    else if x = a then (a, b) :: rest
    else (a, b) :: (x, c) :: rest

/-- Store a byte. Storing what an unlisted offset reads as removes the cell, so that equal memories are equal lists. -/
def Memory.write (m : Memory) (a : Nat) (b : Byte) : Memory :=
  if Memory.unlisted a = some b then m.filter (fun cell => cell.1 ≠ a) else Memory.put m a b

/-- Store the `n` bytes `f 0`, …, `f (n - 1)` from offset `base` on, in that order. -/
def Memory.writeRange (m : Memory) (base n : Nat) (f : Nat → Byte) : Memory :=
  (List.range n).foldl (fun m k => Memory.write m (base + k) (f k)) m

/-- Bring the `n` bytes from offset `base` on back to what unlisted offsets read as: zero in NT, PT and AT. -/
def Memory.forget (m : Memory) (base n : Nat) : Memory :=
  m.filter (fun cell => ¬ (base ≤ cell.1 ∧ cell.1 < base + n))

/-- Every cell from `lo` on, offsets strictly rising, none equal to what an unlisted offset reads as. -/
def Memory.risingFrom (lo : Nat) (m : Memory) : Bool :=
  match m with
  | [] => true
  | (a, b) :: rest =>
    decide (lo ≤ a) && decide (Memory.unlisted a ≠ some b) && Memory.risingFrom (a + 1) rest

/-- The canonical form of memory. -/
def Memory.wf (m : Memory) : Bool := Memory.risingFrom 0 m

/-- Byte `k` of a word, little-endian (R56). -/
def byteOf (w : Word) (k : Nat) : Byte := w.extractLsb' (8 * k) 8

/-- The word of four bytes, little-endian (R56). -/
def wordOf (b0 b1 b2 b3 : Byte) : Word :=
  b0.setWidth 32 ||| (b1.setWidth 32 <<< 8) ||| (b2.setWidth 32 <<< 16) ||| (b3.setWidth 32 <<< 24)

/-- The byte at an offset of NT, AT or PT, where every byte has a value (R42). -/
def Memory.byte (m : Memory) (a : Nat) : Byte := (Memory.read m a).getD 0

/-- The word at an offset of NT, AT or PT (R56). -/
def Memory.word (m : Memory) (a : Nat) : Word :=
  wordOf (Memory.byte m a) (Memory.byte m (a + 1)) (Memory.byte m (a + 2)) (Memory.byte m (a + 3))

/-- The word at an offset of PIXMEM; `none`: not written since reset (R45). Which byte of the word lies at which of its
four offsets cannot be observed (R53, R57); the order is that of R56 (log 12). -/
def Memory.word? (m : Memory) (a : Nat) : Option Word :=
  match Memory.read m a, Memory.read m (a + 1), Memory.read m (a + 2), Memory.read m (a + 3) with
  | some b0, some b1, some b2, some b3 => some (wordOf b0 b1 b2 b3)
  | _, _, _, _ => none

/-- Store a word: all 32 bits (R53). -/
def Memory.writeWord (m : Memory) (a : Nat) (w : Word) : Memory := Memory.writeRange m a 4 (byteOf w)

/-- Word `i` of PIXMEM was written since reset (R45). -/
def State.written (s : State) (i : Nat) : Bool := (Memory.word? s.mem (4 * i)).isSome

/-- `PIXMEM[i]` (R23). A word not written since reset holds an unspecified value, the same one until it is written
(R45, U1; log 5). -/
def State.pixmem (s : State) (i : Nat) : Word :=
  (Memory.word? s.mem (4 * i)).getD (Config.unwrittenPixel s.resets i)

/-- `NT[t]` (R25). -/
def State.nt (s : State) (t : Nat) : Byte := Memory.byte s.mem (ntBase + t)

/-- `PT[i]` (R25). -/
def State.pt (s : State) (i : Nat) : Byte := Memory.byte s.mem (ptBase + i)

/-- `AT[k]` (R25). -/
def State.attr (s : State) (k : Nat) : Byte := Memory.byte s.mem (atBase + k)

/-- `BP[b]` (R25). -/
def State.blockPalette (s : State) (b : Nat) : Bool := s.bp.getLsbD b

/-- `NT[t] <- b`. -/
def State.setNt (s : State) (t : Nat) (b : Byte) : State :=
  { s with mem := Memory.write s.mem (ntBase + t) b }

/-- `AT[k] <- b`. -/
def State.setAttr (s : State) (k : Nat) (b : Byte) : State :=
  { s with mem := Memory.write s.mem (atBase + k) b }

/-- A 64-bit register with bit `b` set to `v`. -/
def setBit (x : BitVec 64) (b : Nat) (v : Bool) : BitVec 64 :=
  if v then x ||| (1#64 <<< b) else x &&& ~~~(1#64 <<< b)

/-- `BP[b] <- v`. -/
def State.setBlockPalette (s : State) (b : Nat) (v : Bool) : State := { s with bp := setBit s.bp b v }

end Sys2Proof.Machine
end

