-- ==== Sys2Proof/Machine/Operands.lean ====
section
/-! DEFINITION. What commands compute on: the colours (R100 to R102), tiles cut from the pixel grid (R104), the 2×2
grouping (R151, R152, R160) and the bit group of PACK8 (R34, R35). -/

namespace Sys2Proof

/-- The six colours in the order of R100. -/
def Colour.all : List Colour := [.grey, .black, .lgreen, .dgreen, .white, .pink]

/-- `PIX(c)` (R100). -/
def ColourTable.pix (t : ColourTable) : Colour → Word
  | .grey   => t.grey
  | .black  => t.black
  | .lgreen => t.lgreen
  | .dgreen => t.dgreen
  | .white  => t.white
  | .pink   => t.pink

/-- `SLOT(c)` (R101; BLACK's slot is the spec's decision D10, log 2). -/
def Colour.slot : Colour → BitVec 2
  | .grey   => 0
  | .black  => 1
  | .lgreen => 2
  | .dgreen => 3
  | .white  => 2
  | .pink   => 3

/-- WHITE and PINK, the marker colours (R12, R153). -/
def Colour.isMarker : Colour → Bool
  | .white | .pink => true
  | .grey | .black | .lgreen | .dgreen => false

/-- `color_of(v)` (R102). -/
def ColourTable.colourOf (t : ColourTable) (v : Word) : Option Colour :=
  Colour.all.find? (fun c => t.pix c = v)

/-- `known(v)` (R102). -/
def ColourTable.known (t : ColourTable) (v : Word) : Bool := (t.colourOf v).isSome

/-- `slot(v)` (R102): "defined only when known(v)"; a free value otherwise (log 14). -/
def ColourTable.slot (t : ColourTable) (v : Word) : BitVec 2 :=
  match t.colourOf v with
  | some c => c.slot
  | none   => Config.unknownSlot v

/-- The pixel is WHITE or PINK (R153). -/
def ColourTable.marks (t : ColourTable) (v : Word) : Bool :=
  match t.colourOf v with
  | some c => c.isMarker
  | none   => false

namespace Machine

/-- The index in PIXMEM of pixel `p` of tile `t` (R104). -/
def tilePixel (t p : Nat) : Nat := (8 * (t / 16) + p / 8) * 128 + 8 * (t % 16) + p % 8

/-- `tile(t)` (R104). -/
def State.tile (s : State) (t : Nat) : Tile := Vector.ofFn fun p : Fin 64 => s.pixmem (tilePixel t p)

/-- Pixel `p` of a tile. -/
def Tile.pixel (T : Tile) (p : Nat) : Word := T.getD p 0

/-- `first_bad` of a tile (R105): the least pixel index that is no known colour; `none`: the tile is valid. -/
def firstBad (c : ColourTable) (T : Tile) : Option Nat := T.toList.findIdx? (fun v => ¬ c.known v)

/-- `valid` of a tile (R105). -/
def validTile (c : ColourTable) (T : Tile) : Bool := (firstBad c T).isNone

/-- The four cells of group `g` of an `n × n` grid, both row-major: `group2x2` of R151, in the order top-left,
top-right, bottom-left, bottom-right. -/
def groupCells (n g : Nat) : List Nat :=
  let i := g / (n / 2)
  let j := g % (n / 2)
  [(2 * i) * n + 2 * j, (2 * i) * n + (2 * j + 1), (2 * i + 1) * n + 2 * j, (2 * i + 1) * n + (2 * j + 1)]

/-- `block_tiles(b)` (R152): the grouping of the 16×16 tile grid. -/
def blockTiles (b : Nat) : List Nat := groupCells 16 b

/-- `super_blocks(s)` (R160): the grouping of the 8×8 block grid. -/
def superBlocks (k : Nat) : List Nat := groupCells 8 k

/-- `BG_ELEM[i]` (R35): byte `i mod 4` of register BG_ELEM(i div 4). -/
def State.bgElemAt (s : State) (i : Nat) : Byte := byteOf (s.bgElem.getD (i / 4) 0) (i % 4)

/-- `GRID_DIM.W` (R30). -/
def State.gridW (s : State) : BitVec 16 := s.gridDim.extractLsb' 0 16

/-- `GRID_DIM.H` (R30). -/
def State.gridH (s : State) : BitVec 16 := s.gridDim.extractLsb' 16 16

/-- `dim_ok` (R103). -/
def State.dimOk (s : State) : Bool := decide (s.gridW = 128) && decide (s.gridH = 128)

/-- `find(T)` (R121): the ID of a registered tile. -/
def State.findTile (s : State) (T : Tile) : Option Nat := s.regTile.findIdx? (fun U => U = T)

end Machine

end Sys2Proof
end

