-- ==== Sys2Proof/Machine/Flags.lean ====
section
/-! DEFINITION. The words the status and result registers read as (R26 to R36). The engine has no arithmetic condition
codes: "The only status bits are STATUS.STATE, STATUS.DROPPED … and the result bits in RESULT" (R37). -/

namespace Sys2Proof.Machine

/-- STATUS.STATE as a field (R26). -/
def EngineState.bits : EngineState → BitVec 2
  | .idle  => 0
  | .busy  => 1
  | .done  => 2
  | .error => 3

/-- ERR.CODE as a field (R200). -/
def ErrCode.bits : ErrCode → BitVec 4
  | .noError           => 0
  | .dimension         => 1
  | .unknownColor      => 2
  | .malformedBitGroup => 3
  | .illegalCommand    => 4
  | .illegalOperand    => 5
  | .registryFull      => 6

/-- STATUS (R26): STATE in bits 1:0, DROPPED in bit 2. -/
def State.statusWord (s : State) : Word :=
  s.engine.bits.setWidth 32 ||| ((BitVec.ofBool s.dropped).setWidth 32 <<< 2)

/-- ERR (R28): CODE 3:0, SUB 4, INFO_A 15:8, INFO_B 21:16. -/
def ErrRecord.word (e : ErrRecord) : Word :=
  e.code.bits.setWidth 32 ||| (e.sub.setWidth 32 <<< 4) ||| (e.infoA.setWidth 32 <<< 8) |||
    (e.infoB.setWidth 32 <<< 16)

/-- DISTINCT (R31): REG_COUNT in bits 8:0. -/
def State.distinctWord (s : State) : Word := (BitVec.ofNat 9 s.regCount).setWidth 32

/-- PT_LEN (R32): 16 * REG_COUNT in bits 12:0. -/
def State.ptLenWord (s : State) : Word := (BitVec.ofNat 13 (16 * s.regCount)).setWidth 32

/-- RESULT (R33): bits 8:0. -/
def State.resultWord (s : State) : Word := s.result.setWidth 32

/-- BG_LEN (R34): bits 7:0. -/
def State.bgLenWord (s : State) : Word := s.bgLen.setWidth 32

/-- BP_LO (R36): bit `i` is BP[i]. -/
def State.bpLoWord (s : State) : Word := s.bp.extractLsb' 0 32

/-- BP_HI (R36): bit `i` is BP[32 + i]. -/
def State.bpHiWord (s : State) : Word := s.bp.extractLsb' 32 32

/-- RESULT of VALIDATE and CLASSIFY (R33): bit 0 is the answer, bits 8:1 are 0. -/
def boolResult (v : Bool) : BitVec 9 := (BitVec.ofBool v).setWidth 9

/-- RESULT of ENCODE, PACKATTR and PACK8 (R33): `zext_9` of a byte. -/
def byteResult (v : Byte) : BitVec 9 := v.setWidth 9

/-- RESULT of REGISTER (R33, R120): bits 7:0 the ID, bit 8 whether the tile was new. -/
def registerResult (isNew : Bool) (id : Nat) : BitVec 9 :=
  ((BitVec.ofBool isNew).setWidth 9 <<< 8) ||| (BitVec.ofNat 8 id).setWidth 9

end Sys2Proof.Machine
end

