-- ==== Sys2Proof/Machine/Ops.lean ====
section
/-! DEFINITION. The operations commands share: error entry (R206) and the return from it (R210), the checks that come
before every effect (R103, R105, R208), and the end of a command. -/

namespace Sys2Proof.Machine

/-- What executing answers. -/
abbrev Result := Host.Outcome State Fault Refusal

/-- Error entry (R206): ERR, ERR_CMD and STATUS.STATE, and nothing else. -/
def State.enterError (s : State) (e : ErrRecord) : State :=
  { s with err := e, errCmd := s.inflight, engine := .error }

/-- The return from ERROR that is a command (R210): what CLEAR sets (R172). -/
def State.clearEngine (s : State) : State :=
  { s with
    regTile := []
    mem     := Memory.forget (Memory.forget (Memory.forget s.mem ntBase 256) atBase 16) ptBase 4096
    bp      := 0
    result  := 0
    err     := ErrRecord.zero
    errCmd  := 0
    dropped := false
    engine  := .idle }

/-- Hardware reset (R230): the other way out of ERROR (R210). It abandons a command in flight (R231) and does not
change the colour table (R232). What the host will do and has read, and the counters of free values, are not the
block's (log 17). -/
def State.hardReset (s : State) : State :=
  { State.reset with
    colours := s.colours
    inbox   := s.inbox
    reads   := s.reads
    draws   := s.draws
    resets  := s.resets + 1 }

/-- The end of a command without error: RESULT, and STATUS.STATE <- DONE. -/
def State.finish (s : State) (r : BitVec 9) : State := { s with result := r, engine := .done }

/-- End a command by its checks: the state with its effect when none of them stops it, else error entry (R206: "the
command ends here; nothing else it would have written is written") or the model's fault. -/
def guarded (check : Option Stop) (s effect : State) : Result :=
  match check with
  | none            => .next effect
  | some (.error e) => .next (s.enterError e)
  | some (.fault f) => .fault f

/-- `require_dim()` (R103, R201). -/
def State.requireDim (s : State) : Option Stop :=
  if s.dimOk then none else some (.error ⟨.dimension, 0, 0, 0⟩)

/-- The fault of reading tile `t`: the first of its words, by pixel index, that was not written since reset (R45; a
tile is read whole, log 4). -/
def State.requireWritten (s : State) (t : Nat) : Option Stop :=
  match ((List.range 64).map (tilePixel t)).find? (fun i => ¬ s.written i) with
  | some i => some (.fault (.unwrittenInput i))
  | none   => none

/-- `require_valid(t)` (R105, R202), after the tile is read. -/
def State.requireValid (s : State) (t : Nat) : Option Stop :=
  (s.requireWritten t).or
    (match firstBad s.colours (s.tile t) with
     | some p => some (.error ⟨.unknownColor, 0, BitVec.ofNat 8 t, BitVec.ofNat 6 p⟩)
     | none   => none)

/-- `for t in ts: require_valid(t)`. -/
def State.requireAllValid (s : State) (ts : List Nat) : Option Stop := ts.findSome? s.requireValid

/-- ILLEGAL_OPERAND (R75, R204) for an operand that must be below a bound. -/
def requireBelow (arg : BitVec 8) (bound : Nat) : Option Stop :=
  if arg.toNat < bound then none else some (.error ⟨.illegalOperand, 0, arg, 0⟩)

end Sys2Proof.Machine
end

