-- ==== Sys2Proof/Machine/Attribute.lean ====
section
/-! DEFINITION. PACKATTR (R162) and the attribute byte of one super-block, which RUN shares (R173 phase 5). -/

namespace Sys2Proof.Machine

/-- `attr_byte(q0, q1, q2, q3)` (R161). -/
def attrByte (q0 q1 q2 q3 : Bool) : Byte :=
  let q (v : Bool) : Byte := (BitVec.ofBool v).setWidth 8
  (q q0 <<< 0) ||| (q q1 <<< 2) ||| (q q2 <<< 4) ||| (q q3 <<< 6)

/-- The attribute byte of super-block `k`, from BP as it stands (R162). -/
def State.attrOf (s : State) (k : Nat) : Byte :=
  let q (j : Nat) : Bool := s.blockPalette ((superBlocks k).getD j 0)
  attrByte (q 0) (q 1) (q 2) (q 3)

/-- `AT[k] <- attr_byte(…)` (R162). -/
def State.packSuper (s : State) (k : Nat) : State := s.setAttr k (s.attrOf k)

/-- PACKATTR k (R162). -/
def execPackattr (k : BitVec 8) (s : State) : Result :=
  guarded (requireBelow k 16) s
    ((s.packSuper k.toNat).finish (byteResult ((s.packSuper k.toNat).attr k.toNat)))

end Sys2Proof.Machine
end

