-- ==== Sys2Proof/Machine/Classifier.lean ====
section
/-! DEFINITION. CLASSIFY (R150) and the classification of one block, which RUN shares (R173 phase 4). -/

namespace Sys2Proof.Machine

/-- `classify(ts)` (R153). -/
def State.classifyTiles (s : State) (ts : List Nat) : Bool :=
  ts.any (fun t => (s.tile t).toList.any s.colours.marks)

/-- `BP[b] <- classify(block_tiles(b))` (R150). -/
def State.classifyBlock (s : State) (b : Nat) : State :=
  s.setBlockPalette b (s.classifyTiles (blockTiles b))

/-- CLASSIFY b (R150). -/
def execClassify (b : BitVec 8) (s : State) : Result :=
  guarded (((requireBelow b 64).or s.requireDim).or (s.requireAllValid (blockTiles b.toNat))) s
    ((s.classifyBlock b.toNat).finish (boolResult ((s.classifyBlock b.toNat).blockPalette b.toNat)))

end Sys2Proof.Machine
end

