-- ==== Sys2Proof/Machine/Pattern.lean ====
section
/-! DEFINITION. The bit-packing helper (R130), the bit planes and the pattern entry (R131, R132), ENCODE (R133) and
PACK8 (R134). -/

namespace Sys2Proof.Machine

/-- The byte of a bit group: element `i` lands in bit `7 - i` (R130). -/
def packByte (e : Nat → Byte) : Byte :=
  (e 0 <<< 7) ||| (e 1 <<< 6) ||| (e 2 <<< 5) ||| (e 3 <<< 4) |||
    (e 4 <<< 3) ||| (e 5 <<< 2) ||| (e 6 <<< 1) ||| e 7

/-- The errors of `bits_to_byte(e, n)` (R130, R203): the length first, then the lowest bad index. -/
def requireBits (n : BitVec 8) (e : Nat → Byte) : Option Stop :=
  if n ≠ 8 then some (.error ⟨.malformedBitGroup, 0, n, 0⟩)
  else
    match (List.range 8).find? (fun i => e i ≠ 0 ∧ e i ≠ 1) with
    | some i => some (.error ⟨.malformedBitGroup, 1, e i, BitVec.ofNat 6 i⟩)
    | none   => none

/-- `lo(v)` (R131), as a byte. -/
def lowBit (c : ColourTable) (v : Word) : Byte := (c.slot v &&& 1).setWidth 8

/-- `hi(v)` (R131), as a byte. -/
def highBit (c : ColourTable) (v : Word) : Byte := ((c.slot v >>> 1) &&& 1).setWidth 8

/-- Byte `k` of `pattern_entry(T)` (R132): bytes 0..7 the low plane, 8..15 the high plane, one byte per pixel row. -/
def patternByte (c : ColourTable) (T : Tile) (k : Nat) : Byte :=
  if k < 8 then packByte (fun col => lowBit c (T.pixel (8 * k + col)))
  else packByte (fun col => highBit c (T.pixel (8 * (k - 8) + col)))

/-- `REG_TILE[id]` (R24), for a registered ID. -/
def State.regTileAt (s : State) (id : Nat) : Tile := s.regTile.getD id (Vector.replicate 64 0)

/-- Write the pattern entry of ID `id` to `PT[16*id .. 16*id+15]` (R133), which RUN shares (R173 phase 3). -/
def State.encodeTile (s : State) (id : Nat) : State :=
  { s with mem := Memory.writeRange s.mem (ptBase + 16 * id) 16 (patternByte s.colours (s.regTileAt id)) }

/-- ENCODE id (R133). -/
def execEncode (id : BitVec 8) (s : State) : Result :=
  guarded (requireBelow id s.regCount) s ((s.encodeTile id.toNat).finish (byteResult id))

/-- PACK8 (R134). -/
def execPack8 (s : State) : Result :=
  guarded (requireBits s.bgLen s.bgElemAt) s (s.finish (byteResult (packByte s.bgElemAt)))

end Sys2Proof.Machine
end

