-- ==== Sys2Proof/Machine/Registry.lean ====
section
/-! DEFINITION. REGISTER (R120) and the registration of one tile, which RUN shares (R173 phase 2). -/

namespace Sys2Proof.Machine

/-- The ID tile `t` has or will get, and whether it is new (R120). -/
def State.idOf (s : State) (t : Nat) : Bool × Nat :=
  match s.findTile (s.tile t) with
  | some id => (false, id)
  | none    => (true, s.regCount)

/-- Register tile `t`: insert it if it is new, and write `NT[t]` (R120). -/
def State.registerTile (s : State) (t : Nat) : State :=
  { s with
    regTile := if (s.idOf t).1 then s.regTile ++ [s.tile t] else s.regTile
    mem     := Memory.write s.mem (ntBase + t) (BitVec.ofNat 8 (s.idOf t).2) }

/-- REGISTRY_FULL (R205): the tile is new and 256 tiles are registered. -/
def State.requireRoom (s : State) (t : Nat) : Option Stop :=
  if (s.idOf t).1 ∧ 256 ≤ s.regCount then some (.error ⟨.registryFull, 0, BitVec.ofNat 8 t, 0⟩) else none

/-- REGISTER t (R120). -/
def execRegister (t : BitVec 8) (s : State) : Result :=
  guarded ((s.requireDim.or (s.requireValid t.toNat)).or (s.requireRoom t.toNat)) s
    ((s.registerTile t.toNat).finish (registerResult (s.idOf t.toNat).1 (s.idOf t.toNat).2))

end Sys2Proof.Machine
end

