-- ==== Sys2Proof/Machine/Control.lean ====
section
/-! DEFINITION. NOP (R171), CLEAR (R172) and RUN (R173). -/

namespace Sys2Proof.Machine

/-- NOP (R171): "STATE, RESULT, ERR and every array keep their values". -/
def execNop (s : State) : Result := .next s

/-- CLEAR (R172). -/
def execClear (s : State) : Result := .next s.clearEngine

/-- What RUN starts phase 2 with (R173): an empty registry and a zero pattern table. -/
def State.startRun (s : State) : State :=
  { s with regTile := [], mem := Memory.forget s.mem ptBase 4096 }

/-- Phase 2 of RUN (R173): register the tiles in ascending order. -/
def State.registerAll (s : State) : State := (List.range 256).foldl State.registerTile s

/-- Phase 3 of RUN (R173): encode every registered tile, IDs ascending. -/
def State.encodeAll (s : State) : State := (List.range s.regCount).foldl State.encodeTile s

/-- Phase 4 of RUN (R173): classify every block, block numbers ascending. -/
def State.classifyAll (s : State) : State := (List.range 64).foldl State.classifyBlock s

/-- Phase 5 of RUN (R173): pack every super-block, numbers ascending. -/
def State.packAll (s : State) : State := (List.range 16).foldl State.packSuper s

/-- Phases 2 to 5 of RUN (R173). -/
@[irreducible] def State.pipeline (s : State) : State := s.startRun.registerAll.encodeAll.classifyAll.packAll

/-- RUN (R173): the checks of phase 1, the pipeline, and RESULT <- REG_COUNT. -/
def execRun (s : State) : Result :=
  guarded (s.requireDim.or (s.requireAllValid (List.range 256))) s
    (s.pipeline.finish (BitVec.ofNat 9 s.pipeline.regCount))

end Sys2Proof.Machine
end

