-- ==== Sys2Proof/Machine/Extract.lean ====
section
/-! DEFINITION. CHKDIM (R106) and VALIDATE (R107). -/

namespace Sys2Proof.Machine

/-- CHKDIM (R106). -/
def execChkdim (s : State) : Result := guarded s.requireDim s (s.finish 0)

/-- VALIDATE t (R107): "An invalid tile is not an error of VALIDATE". -/
def execValidate (t : BitVec 8) (s : State) : Result :=
  guarded (s.requireDim.or (s.requireWritten t.toNat)) s
    (s.finish (boolResult (validTile s.colours (s.tile t.toNat))))

end Sys2Proof.Machine
end

