-- ==== Sys2Proof/Machine/Dispatch.lean ====
section
/-! DEFINITION. exec: one arm per command, each a call of its meaning (R72). -/

namespace Sys2Proof.Machine

def exec (i : Instr) (s : State) : Host.Outcome State Fault Refusal :=
  match i with
  | .nop => Sys2Proof.Machine.execNop s
  | .run => Sys2Proof.Machine.execRun s
  | .clear => Sys2Proof.Machine.execClear s
  | .chkdim => Sys2Proof.Machine.execChkdim s
  | .validate t => Sys2Proof.Machine.execValidate t s
  | .register t => Sys2Proof.Machine.execRegister t s
  | .encode id => Sys2Proof.Machine.execEncode id s
  | .classify b => Sys2Proof.Machine.execClassify b s
  | .packattr k => Sys2Proof.Machine.execPackattr k s
  | .pack8 => Sys2Proof.Machine.execPack8 s

end Sys2Proof.Machine
end

