-- ==== Sys2Proof/Machine/Window.lean ====
section
/-! DEFINITION. The host window: the address map (R52), what a host read returns (R53 to R56, R62) and what a host write
to an input stores (R55, R60). Writes to CMD are in Machine/Engine.lean. -/

namespace Sys2Proof.Machine

/-- `BASE` (R8): aligned to 0x20000. -/
def busBase : Nat := 0x20000 * Config.baseIndex

/-- The bus address of an offset (R10, R50). -/
def busAddress (off : Offset) : Nat := busBase + off.toNat

/-- The offset a bus address selects; `none`: outside the window (R52). -/
def windowOffset (addr : Nat) : Option Offset :=
  if busBase ≤ addr ∧ addr < busBase + 0x20000 then some (BitVec.ofNat 17 (addr - busBase)) else none

/-- The place a word offset selects, by the address map of R52; `w` is the offset of the word, divided by 4. -/
def portOfWord (w : Nat) : Port :=
  if w < 0x4000 then .pixmem w
  else if w = 0x4000 then .cmd
  else if w = 0x4001 then .status
  else if w = 0x4002 then .err
  else if w = 0x4003 then .errCmd
  else if w = 0x4004 then .gridDim
  else if w = 0x4005 then .distinct
  else if w = 0x4006 then .ptLen
  else if w = 0x4007 then .result
  else if w = 0x4008 then .bgLen
  else if w = 0x4009 then .bgElem 0
  else if w = 0x400A then .bgElem 1
  else if w = 0x400B then .bgElem 2
  else if w = 0x400C then .bgElem 3
  else if w = 0x4010 then .bpLo
  else if w = 0x4011 then .bpHi
  else if 0x4040 ≤ w ∧ w < 0x4080 then .ntWord (w - 0x4040)
  else if 0x4080 ≤ w ∧ w < 0x4084 then .atWord (w - 0x4080)
  else if 0x4400 ≤ w ∧ w < 0x4800 then .ptWord (w - 0x4400)
  else .reserved

/-- The place an offset selects: bits 1:0 are ignored (R53). -/
def portOf (off : Offset) : Port := portOfWord (off.toNat / 4)

/-- The places whose reads return an unspecified value while BUSY (R62). -/
def Port.isOutput : Port → Bool
  | .err | .errCmd | .distinct | .ptLen | .result | .bpLo | .bpHi | .ntWord _ | .atWord _ | .ptWord _ => true
  | .pixmem _ | .cmd | .status | .gridDim | .bgLen | .bgElem _ | .reserved => false

/-- The word a place reads as outside R62 (R52 to R56). -/
def State.readPort (s : State) : Port → Word
  | .pixmem i => s.pixmem i
  | .cmd      => 0
  | .status   => s.statusWord
  | .err      => s.err.word
  | .errCmd   => s.errCmd
  | .gridDim  => s.gridDim
  | .distinct => s.distinctWord
  | .ptLen    => s.ptLenWord
  | .result   => s.resultWord
  | .bgLen    => s.bgLenWord
  | .bgElem k => s.bgElem.getD k.val 0
  | .bpLo     => s.bpLoWord
  | .bpHi     => s.bpHiWord
  | .ntWord k => Memory.word s.mem (ntBase + 4 * k)
  | .atWord k => Memory.word s.mem (atBase + 4 * k)
  | .ptWord k => Memory.word s.mem (ptBase + 4 * k)
  | .reserved => 0

/-- The word a host read returns (R62: while BUSY an engine output is a fresh free value). -/
def State.readValue (s : State) (off : Offset) : Word :=
  if s.engine = .busy ∧ (portOf off).isOutput then Config.busyRead s.draws else s.readPort (portOf off)

/-- `HostRead(off)` (R50): the host gets the word, and nothing of the block changes (R59). -/
def State.hostRead (s : State) (off : Offset) : State :=
  { s with reads := s.readValue off :: s.reads, draws := s.draws + 1 }

/-- A dropped host write (R209): "sets STATUS.DROPPED, leaves STATE and ERR unchanged and starts no command". -/
def State.drop (s : State) : State := { s with dropped := true }

/-- What a host write to a place other than CMD stores (R52, R55, R59): nothing in an RO or reserved place. -/
def State.writePort (s : State) (v : Word) : Port → State
  | .pixmem i => { s with mem := Memory.writeWord s.mem (4 * i) v }
  | .gridDim  => { s with gridDim := v }
  | .bgLen    => { s with bgLen := v.extractLsb' 0 8 }
  | .bgElem k => { s with bgElem := s.bgElem.set k.val v }
  | .cmd | .status | .err | .errCmd | .distinct | .ptLen | .result | .bpLo | .bpHi => s
  | .ntWord _ | .atWord _ | .ptWord _ | .reserved => s

/-- The inputs of the engine: what the host may not change while BUSY (R60), CMD apart. -/
def Port.isInput : Port → Bool
  | .pixmem _ | .gridDim | .bgLen | .bgElem _ => true
  | .cmd | .status | .err | .errCmd | .distinct | .ptLen | .result | .bpLo | .bpHi => false
  | .ntWord _ | .atWord _ | .ptWord _ | .reserved => false

/-- A host write to a place other than CMD: dropped on an input while BUSY (R60). -/
def State.hostStore (s : State) (p : Port) (v : Word) : State :=
  if s.engine = .busy ∧ p.isInput then s.drop else s.writePort v p

end Sys2Proof.Machine
end

