-- ==== Sys2Proof/Machine/Engine.lean ====
section
/-! DEFINITION. The life cycle of a command (R170): acceptance, completion, and which agent moves next (R63). -/

namespace Sys2Proof.Machine

/-- The atomic completion step of the command in flight (R170). -/
def State.complete (s : State) : Result :=
  match decode s.inflight with
  | .command i        => exec i s
  | .illegalCommand   => .next (s.enterError ⟨.illegalCommand, 0, 0, 0⟩)
  | .illegalOperand a => .next (s.enterError ⟨.illegalOperand, 0, a, 0⟩)

/-- The acceptance of a command word: it is kept in INFLIGHT and the engine is BUSY (R170), for a LATENCY that is
drawn freely (R8; log 8). -/
def State.accept (s : State) (w : Word) : State :=
  { s with inflight := w, engine := .busy, latencyLeft := Config.latency s.draws, draws := s.draws + 1 }

/-- A host write to CMD (R170). NOP has its effect at once and does not pass through BUSY (R171). -/
def State.submit (s : State) (w : Word) : Result :=
  if s.engine = .busy then .next s.drop
  else if s.engine = .error ∧ w ≠ encode .clear then .next s.drop
  else if w = encode .nop then exec .nop s
  else .next (s.accept w)

/-- `HostWrite(off, v)` (R50). -/
def State.hostWrite (s : State) (off : Offset) (v : Word) : Result :=
  match portOf off with
  | .cmd => s.submit v
  | p    => .next (s.hostStore p v)

/-- Offset of STATUS (R52). -/
def statusOffset : Offset := 0x10004

/-- Offset of CMD (R52). -/
def cmdOffset : Offset := 0x10000

/-- One read of the POLL loop (R83): the loop goes on while STATE is BUSY. -/
def State.pollOnce (s : State) : State :=
  let t := s.hostRead statusOffset
  if s.engine = .busy then { t with inbox := .poll :: t.inbox } else t

/-- One move of the host. -/
def State.hostMove (s : State) (m : HostMove) : Result :=
  match m with
  | .read off    => .next (s.hostRead off)
  | .write off v => s.hostWrite off v
  | .poll        => .next s.pollOnce
  | .reset       => .next s.hardReset

/-- The command in flight completes now: its LATENCY has passed, or the host has no further move (R170, log 8). -/
def State.completionDue (s : State) : Bool :=
  decide (s.engine = .busy) && (decide (s.latencyLeft = 0) || s.inbox.isEmpty)

/-- The host's first move is taken out of the inbox; a move made while BUSY uses up LATENCY. -/
def State.takeMove (s : State) (rest : List HostMove) : State :=
  { s with inbox := rest, latencyLeft := s.latencyLeft - 1 }

/-- One step of the two agents: the completion when it is due, else the host's next move; with neither, the block "keeps
all state" (R217). -/
def State.advance (s : State) : Result :=
  if s.completionDue then s.complete
  else
    match s.inbox with
    | []        => .next s
    | m :: rest => (s.takeMove rest).hostMove m

/-- The state in which the very next step runs the command word `w` (log 11): in INFLIGHT with its LATENCY passed, or,
for NOP, which never enters BUSY (R171), about to be written to CMD by the host. -/
def State.withCommand (s : State) (w : Word) : State :=
  if w = encode .nop then
    { s with
      engine := if s.engine = .done then .done else .idle
      inbox  := .write cmdOffset w :: s.inbox }
  else { s with inflight := w, engine := .busy, latencyLeft := 0 }

end Sys2Proof.Machine
end

