-- ==== Sys2Proof/Machine/Step.lean ====
section
/-! DEFINITION. One step of the machine (R63, R170), and where its next command is fetched from (log 11). -/

namespace Sys2Proof.Machine

/-- One step: the engine completes the command in flight, or the host makes its next move. -/
def step (s : State) : Host.Outcome State Fault Refusal := s.advance

/-- The state whose very next step fetches and runs the command word `w`, a single 32-bit word (R70). -/
def State.withFetchWord (s : State) (_nbits w : Nat) : State := s.withCommand (BitVec.ofNat 32 w)

end Sys2Proof.Machine
end

