-- ==== Sys2Proof/Machine/HostProgram.lean ====
section
/-! DEFINITION. Host programs (R80 to R83): their statements, and the host moves they expand to. -/

namespace Sys2Proof.Machine

/-- A number in a host program (R80): a literal, or the name of an open parameter. `PIX_BAD`, "any 32-bit value equal
to none of them", is a literal of the program's choice. -/
inductive Value where
  | lit (v : Word)
  | pix (c : Colour)
  deriving DecidableEq, Repr

/-- The statements of R80, R81 and R82. -/
inductive HostStmt where
  | write (off : Offset) (v : Value)
  | read (off : Offset)
  | expect (off : Offset) (v : Value)
  | command (i : Instr)
  | poll
  | doCommand (i : Instr)
  | setDim (w h : BitVec 16)
  | setPix (y x : Nat) (v : Value)
  | fillGrid (v : Value)
  | fillTile (t : Nat) (v : Value)
  | setTilePix (t p : Nat) (v : Value)
  | setBg (n : Byte) (e : List Byte)
  deriving DecidableEq, Repr

/-- The word a value names, under a colour table. -/
def Value.eval (c : ColourTable) : Value → Word
  | .lit v  => v
  | .pix cl => c.pix cl

/-- `SETPIX y, x, v` (R82). R82 bounds neither `y` nor `x`. DESIGN CHOICE (log 19, unsafe): the offset `4*(y*128 + x)` is
taken modulo 0x20000, so operands outside the grid address another place of the window (`SETPIX 256, 0` is PIXMEM[0]). -/
def setPixMove (y x : Nat) (v : Word) : HostMove := .write (BitVec.ofNat 17 (4 * (y * 128 + x))) v

/-- `SETTILEPIX t, p, v` (R82), for `t` and `p` of any size (log 19). -/
def setTilePixMove (t p : Nat) (v : Word) : HostMove :=
  setPixMove (8 * (t / 16) + p / 8) (8 * (t % 16) + p % 8) v

/-- Register BG_ELEMk of `SETBG` (R82): "elements not given are 0". Elements past the 16th are not
used (DESIGN CHOICE, log 19). -/
def bgWord (e : List Byte) (k : Nat) : Word :=
  wordOf (e.getD (4 * k) 0) (e.getD (4 * k + 1) 0) (e.getD (4 * k + 2) 0) (e.getD (4 * k + 3) 0)

/-- The expansion of a statement into host moves (R80 to R83). EXPECT is the read it asserts something about; what a
read returned is in `reads` (log 15). Pixel statements with operands outside the grid: log 19. -/
def HostStmt.expand (c : ColourTable) : HostStmt → List HostMove
  | .write off v     => [.write off (v.eval c)]
  | .read off        => [.read off]
  | .expect off _    => [.read off]
  | .command i       => [.write cmdOffset (encode i)]
  | .poll            => [.poll]
  | .doCommand i     => [.write cmdOffset (encode i), .poll]
  | .setDim w h      => [.write 0x10010 ((h.setWidth 32 <<< 16) ||| w.setWidth 32)]
  | .setPix y x v    => [setPixMove y x (v.eval c)]
  | .fillGrid v      =>
    (List.range 128).flatMap fun y => (List.range 128).map fun x => setPixMove y x (v.eval c)
  | .fillTile t v    =>
    (List.range 8).flatMap fun r => (List.range 8).map fun col =>
      setPixMove (8 * (t / 16) + r) (8 * (t % 16) + col) (v.eval c)
  | .setTilePix t p v => [setTilePixMove t p (v.eval c)]
  | .setBg n e       =>
    .write 0x10020 (n.setWidth 32) ::
      (List.range 4).map fun k => .write (BitVec.ofNat 17 (0x10024 + 4 * k)) (bgWord e k)

/-- The host will run a program next (log 11). -/
def State.withProgram (s : State) (p : List HostStmt) : State :=
  { s with inbox := p.flatMap (HostStmt.expand s.colours) ++ s.inbox }

end Sys2Proof.Machine
end

