-- ==== Sys2Proof/Safety.lean ====
section
/-! DEFINITION. The terms claims are stated in: the invariant of the machine, what the spec asks of inputs before a
command completes, and what a run is. -/

namespace Sys2Proof.Machine

/-- The grid the host reports is 128×128 (R103): "Only `0x00800080` (W = H = 128) passes the dimension check" (R233). -/
abbrev State.dimensionsOk (s : State) : Prop := s.gridDim = 0x00800080

/-- Every word of tile `t` was written since reset (R45). -/
def State.TileWritten (s : State) (t : Nat) : Prop := ∀ p < 64, s.written (tilePixel t p) = true

/-- The word is the pixel value of a colour (R102). -/
def State.IsColour (s : State) (v : Word) : Prop := ∃ c : Colour, s.colours.pix c = v

/-- Tile `t` is valid (R105): every one of its 64 pixels is a known colour. -/
def State.TileValid (s : State) (t : Nat) : Prop := ∀ p < 64, s.IsColour (s.pixmem (tilePixel t p))

/-- Every word of PIXMEM was written since reset: the host's first duty (R233). -/
def State.Loaded (s : State) : Prop := ∀ i < 16384, s.written i = true

/-- Every listed cell lies in PIXMEM, NT, AT or PT (R52). -/
def Memory.Mapped (m : Memory) : Prop :=
  ∀ cell ∈ m, cell.1 < 0x10000 ∨ (ntBase ≤ cell.1 ∧ cell.1 < ntBase + 256) ∨
    (atBase ≤ cell.1 ∧ cell.1 < atBase + 16) ∨ (ptBase ≤ cell.1 ∧ cell.1 < ptBase + 4096)

/-- A registered tile is valid (R122, item 4). -/
def State.KnownTile (s : State) (T : Tile) : Prop := ∀ p < 64, s.IsColour (T.pixel p)

/-- The registry is injective, holds at most 256 tiles, and each of them is valid (R24, R122). -/
structure State.RegistryOk (s : State) : Prop where
  injective : s.regTile.Nodup
  capacity  : s.regTile.length ≤ 256
  valid     : ∀ T ∈ s.regTile, s.KnownTile T

/-- ERR and ERR_CMD hold an error exactly when one is recorded and not yet cleared (R28, R206, R210): none while IDLE or
DONE, one while ERROR, and while BUSY only with CLEAR in flight (R61). NOP is never in flight (R171). -/
structure State.ErrorOk (s : State) : Prop where
  quiet    : s.engine = .idle ∨ s.engine = .done → s.err = ErrRecord.zero ∧ s.errCmd = 0
  recorded : s.engine = .error → s.err.code ≠ .noError
  running  : s.engine = .busy → s.inflight ≠ encode .nop ∧
    (s.inflight ≠ encode .clear → s.err = ErrRecord.zero ∧ s.errCmd = 0)

/-- Bits 1, 3, 5 and 7 of every attribute byte are 0 (R161). -/
def State.AttributesOk (s : State) : Prop := ∀ k < 16, s.attr k &&& 0xAA = 0

/-- The invariant of the machine: memory in its canonical form and inside the map, the registry as R122 says, the error
record as R206 and R210 say, the attribute table as R161 says. -/
structure State.Inv (s : State) : Prop where
  canonical  : Memory.wf s.mem = true
  mapped     : Memory.Mapped s.mem
  registry   : s.RegistryOk
  errors     : s.ErrorOk
  attributes : s.AttributesOk

/-- What the block itself holds: everything but the host's side of the model (`inbox`, `reads`), the schedule
(`latencyLeft`) and the counter of free values (`draws`). -/
def State.block (s : State) : State := { s with inbox := [], reads := [], latencyLeft := 0, draws := 0 }

/-- States some run from reset reaches, whatever the host does: the inbox is given from outside (log 11). -/
inductive Reachable : State → Prop where
  | reset : Reachable State.reset
  | host (s : State) (moves : List HostMove) : Reachable s → Reachable { s with inbox := moves }
  | step (s t : State) : Reachable s → Sys2Proof.Machine.step s = .next t → Reachable t

/-- The state after a command that ended with an error, as R206 writes it: ERR, ERR_CMD and STATUS.STATE, nothing else. -/
def State.afterError (s : State) (code : ErrCode) (sub : BitVec 1) (a : BitVec 8) (b : BitVec 6) : State :=
  { s with err := ⟨code, sub, a, b⟩, errCmd := s.inflight, engine := .error }

/-- The host makes its next move `m` in this step (R63.1): it is first in the inbox, and no completion comes before it. -/
def State.HostMoves (s : State) (m : HostMove) (rest : List HostMove) : Prop :=
  s.inbox = m :: rest ∧ s.completionDue = false

/-- Pixel `p` is the first of tile `t` that is no known colour (R105). -/
def State.FirstBad (s : State) (t p : Nat) : Prop :=
  p < 64 ∧ ¬ s.IsColour (s.pixmem (tilePixel t p)) ∧ ∀ q < p, s.IsColour (s.pixmem (tilePixel t q))

/-- Every byte of memory outside the `n` bytes from `base` on reads in `t` as in `s`. -/
def State.SameOutside (s t : State) (base n : Nat) : Prop :=
  ∀ a, ¬ (base ≤ a ∧ a < base + n) → Memory.read t.mem a = Memory.read s.mem a

/-- Where a storing command stores, and how many bytes: NT[t] (R120), PT[16*id .. 16*id+15] (R133), AT[k] (R162). -/
def storedBytes : Instr → Nat × Nat
  | .register t => (ntBase + t.toNat, 1)
  | .encode id  => (ptBase + 16 * id.toNat, 16)
  | .packattr k => (atBase + k.toNat, 1)
  | .nop | .run | .clear | .chkdim | .validate _ | .classify _ | .pack8 => (0, 0)

/-- A run of commands one after the other, as if each were in flight in turn (R174). -/
def execAll : List Instr → State → Result
  | [], s => .next s
  | i :: rest, s =>
    match exec i s with
    | .next t    => execAll rest t
    | .fault f   => .fault f
    | .refused r => .refused r

end Sys2Proof.Machine
end

