-- ==== Sys2Proof/Certificates/Slice0/Obligations.lean ====
section
/-! DEFINITION. The statements for the provers. Each docstring names the rule of spec/ it formalises. -/

open Sys2Proof Sys2Proof.Machine

/-! ### Encoding (30_encoding.md) -/

/-- Decode and encode agree: the word of every well-formed command decodes to that command, operand and all. -/
def Obligations.DecodeOfEncode : Prop :=
  ∀ i : Instr, i.wf = true → decode (encode i) = .command i

/-- Each command has exactly one legal word: a word that decodes to a command is that command's word. -/
def Obligations.EncodeOfDecode : Prop :=
  ∀ (w : Word) (i : Instr), decode w = .command i → i.wf = true ∧ encode i = w

/-- R74: which words are illegal, and that an accepted illegal word ends at once with ILLEGAL_COMMAND, changing nothing
but STATUS, ERR and ERR_CMD. -/
def Obligations.IllegalWordsEndWithIllegalCommand : Prop :=
  ∀ w : Word,
    (decode w = .illegalCommand ↔
      w.toNat / 16 % 16 ≠ 0 ∨ w.toNat / 65536 ≠ 0 ∨ 10 ≤ w.toNat % 16 ∨
      ((w.toNat % 16 ≤ 3 ∨ w.toNat % 16 = 9) ∧ w.toNat / 256 % 256 ≠ 0)) ∧
    ∀ s : State, s.completionDue = true → s.inflight = w → decode w = .illegalCommand →
      step s = .next (s.afterError .illegalCommand 0 0 0)

/-- R75: a legal word with ARG outside the range the operation accepts ends with ILLEGAL_OPERAND; VALIDATE and REGISTER
accept every ARG. -/
def Obligations.OutOfRangeOperandsEndWithIllegalOperand : Prop :=
  ∀ (s : State) (a : BitVec 8), s.completionDue = true →
    (s.inflight = 0x00000007 ||| (a.setWidth 32 <<< 8) → 64 ≤ a.toNat →
      step s = .next (s.afterError .illegalOperand 0 a 0)) ∧
    (s.inflight = 0x00000008 ||| (a.setWidth 32 <<< 8) → 16 ≤ a.toNat →
      step s = .next (s.afterError .illegalOperand 0 a 0)) ∧
    (s.inflight = 0x00000006 ||| (a.setWidth 32 <<< 8) → s.regCount ≤ a.toNat →
      step s = .next (s.afterError .illegalOperand 0 a 0)) ∧
    (s.inflight = 0x00000004 ||| (a.setWidth 32 <<< 8) → step s = exec (.validate a) s) ∧
    (s.inflight = 0x00000005 ||| (a.setWidth 32 <<< 8) → step s = exec (.register a) s)

/-- A few words of R73's tables decode to the commands they stand for (a sanity statement). -/
def Obligations.ExampleWordsDecode : Prop :=
  decode 0x00000000 = .command .nop ∧ decode 0x00000001 = .command .run ∧
  decode 0x0000FF04 = .command (.validate 255) ∧ decode 0x00001105 = .command (.register 17) ∧
  decode 0x00000206 = .command (.encode 2) ∧ decode 0x00003F07 = .command (.classify 63) ∧
  decode 0x00000F08 = .command (.packattr 15) ∧ decode 0x00000009 = .command .pack8 ∧
  decode 0x00004007 = .illegalOperand 64 ∧ decode 0x00004017 = .illegalCommand

/-! ### Steps and the life cycle of a command (45_control.md) -/

/-- A step runs the decoded command: when the completion is due, `step` is `exec` of the command INFLIGHT decodes to, at
that state. A NOP has no completion: the host's write of its word to CMD runs it at once, unless it is dropped. -/
def Obligations.StepRunsTheDecodedCommand : Prop :=
  (∀ (s : State) (i : Instr), s.completionDue = true → decode s.inflight = .command i → step s = exec i s) ∧
  (∀ (s : State) (off : Offset) (rest : List HostMove), s.HostMoves (.write off 0) rest → off.toNat / 4 = 0x4000 →
    s.engine ≠ .busy → s.engine ≠ .error → step s = exec .nop (s.takeMove rest))

/-- R170, acceptance: what a host write to CMD does in each state of the engine. The accepted word is kept in INFLIGHT;
how long the command takes (`latencyLeft`) is not fixed. That LATENCY counts host moves, and the counter `draws`, are the
model's own (log 8, log 9). -/
def Obligations.CommandAcceptance : Prop :=
  ∀ (s : State) (off : Offset) (w : Word) (rest : List HostMove),
    s.HostMoves (.write off w) rest → off.toNat / 4 = 0x4000 →
    (s.engine = .busy → step s = .next { s.takeMove rest with dropped := true }) ∧
    (s.engine = .error → w ≠ 0x00000002 → step s = .next { s.takeMove rest with dropped := true }) ∧
    (s.engine = .idle ∨ s.engine = .done → w = 0 → step s = .next (s.takeMove rest)) ∧
    (s.engine = .idle ∨ s.engine = .done ∨ (s.engine = .error ∧ w = 0x00000002) → w ≠ 0 →
      ∃ n, step s = .next { s.takeMove rest with
        inflight := w, engine := .busy, latencyLeft := n, draws := s.draws + 1 })

/-- R170, completion: every accepted command ends. From a BUSY state, after at most `latencyLeft + 1` steps the engine
is no longer BUSY, or the machine has faulted on unwritten input. That LATENCY counts host moves is the model's own
(log 8). The premise is the invariant that NOP is never in flight. -/
def Obligations.EveryAcceptedCommandEnds : Prop :=
  ∀ s : State, s.engine = .busy → s.inflight ≠ 0 →
    ∃ k ≤ s.latencyLeft + 1,
      (∃ t, core.run k s = .next t ∧ t.engine ≠ .busy) ∨ (∃ f, core.run k s = .fault f)

/-- No step is refused: every command has a meaning. -/
def Obligations.NoStepIsRefused : Prop :=
  ∀ (s : State) (r : Refusal), step s ≠ .refused r

/-- R83: one read of the POLL loop returns STATUS; the loop goes on exactly while STATE is BUSY. -/
def Obligations.PollReadsStatusUntilNotBusy : Prop :=
  ∀ (s : State) (rest : List HostMove), s.HostMoves .poll rest →
    ∃ t, step s = .next t ∧ t.block = s.block ∧ t.reads = s.statusWord :: s.reads ∧
      (s.engine = .busy → t.inbox = .poll :: rest) ∧ (s.engine ≠ .busy → t.inbox = rest)

/-! ### The host window (20_memory.md) -/

/-- R60: while BUSY, a host write to CMD, PIXMEM, GRID_DIM, BG_LEN or a BG_ELEMk is dropped: the target and the running
command are not changed, and DROPPED is set. -/
def Obligations.WritesWhileBusyAreDropped : Prop :=
  ∀ (s : State) (off : Offset) (v : Word) (rest : List HostMove),
    s.HostMoves (.write off v) rest → s.engine = .busy →
    (off.toNat / 4 ≤ 0x4000 ∨ off.toNat / 4 = 0x4004 ∨ (0x4008 ≤ off.toNat / 4 ∧ off.toNat / 4 ≤ 0x400C)) →
    ∃ t, step s = .next t ∧ t.block = { s with dropped := true }.block ∧ t.inbox = rest

/-- R61: while ERROR, a CMD write of any word but CLEAR is dropped and starts no command; writes to PIXMEM, GRID_DIM,
BG_LEN and BG_ELEM are accepted. -/
def Obligations.WritesWhileError : Prop :=
  ∀ (s : State) (off : Offset) (v : Word) (rest : List HostMove),
    s.HostMoves (.write off v) rest → s.engine = .error →
    ∃ t, step s = .next t ∧ t.inbox = rest ∧
      (off.toNat / 4 = 0x4000 → v ≠ 0x00000002 → t.block = { s with dropped := true }.block) ∧
      (off.toNat / 4 < 0x4000 → t.pixmem (off.toNat / 4) = v ∧ t.block = { s with mem := t.mem }.block ∧
        s.SameOutside t (4 * (off.toNat / 4)) 4) ∧
      (off.toNat / 4 = 0x4004 → t.block = { s with gridDim := v }.block) ∧
      (off.toNat / 4 = 0x4008 → t.block = { s with bgLen := v.setWidth 8 }.block) ∧
      (∀ k : Fin 4, off.toNat / 4 = 0x4009 + k.val → t.block = { s with bgElem := s.bgElem.set k.val v }.block)

/-- R54: a reserved offset reads zero and ignores writes, without DROPPED and without side effects. That this holds while
BUSY too is the model's inference (log 18, DEDUCED). -/
def Obligations.ReservedOffsets : Prop :=
  ∀ (s : State) (off : Offset) (v : Word) (rest : List HostMove),
    ((0x10034 ≤ off.toNat ∧ off.toNat < 0x10040) ∨ (0x10048 ≤ off.toNat ∧ off.toNat < 0x10100) ∨
      (0x10210 ≤ off.toNat ∧ off.toNat < 0x11000) ∨ 0x12000 ≤ off.toNat) →
    s.readValue off = 0 ∧
    (s.HostMoves (.write off v) rest → ∃ t, step s = .next t ∧ t.block = s.block ∧ t.inbox = rest) ∧
    (s.HostMoves (.read off) rest → ∃ t, step s = .next t ∧ t.block = s.block ∧ t.reads = 0 :: s.reads)

/-- R55: a write to an RO register or an RO array is ignored and does not set DROPPED; CMD reads zero; an RW register
reads the value last written, reserved bits zero. That the first two hold while BUSY too is the model's inference (log 18,
DEDUCED). -/
def Obligations.ReadOnlyWriteOnlyAndReadWriteAccess : Prop :=
  ∀ (s : State) (off : Offset) (v : Word) (rest : List HostMove),
    ((off.toNat / 4 ∈ [0x4001, 0x4002, 0x4003, 0x4005, 0x4006, 0x4007, 0x4010, 0x4011] ∨
        (0x4040 ≤ off.toNat / 4 ∧ off.toNat / 4 < 0x4084) ∨ (0x4400 ≤ off.toNat / 4 ∧ off.toNat / 4 < 0x4800)) →
      s.HostMoves (.write off v) rest → ∃ t, step s = .next t ∧ t.block = s.block ∧ t.inbox = rest) ∧
    (off.toNat / 4 = 0x4000 → s.readValue off = 0) ∧
    (s.engine ≠ .busy → s.HostMoves (.write off v) rest →
      (off.toNat / 4 = 0x4004 ∨ (0x4009 ≤ off.toNat / 4 ∧ off.toNat / 4 ≤ 0x400C) →
        ∃ t, step s = .next t ∧ t.readValue off = v) ∧
      (off.toNat / 4 = 0x4008 → ∃ t, step s = .next t ∧ t.readValue off = v &&& 0xFF))

/-- R53: bits 1:0 of the offset are ignored: two offsets of the same word are the same access. -/
def Obligations.LowOffsetBitsAreIgnored : Prop :=
  ∀ (s : State) (off off' : Offset) (v : Word) (rest : List HostMove),
    off &&& 0x1FFFC = off' &&& 0x1FFFC → s.completionDue = false →
    step { s with inbox := .write off v :: rest } = step { s with inbox := .write off' v :: rest } ∧
    step { s with inbox := .read off :: rest } = step { s with inbox := .read off' :: rest }

/-- R51, R52: a host write to PIXMEM while the engine is not BUSY stores the word at `PIXMEM[off / 4]`, whole, and
changes no other byte of memory and nothing else. -/
def Obligations.PixmemStore : Prop :=
  ∀ (s : State) (off : Offset) (v : Word) (rest : List HostMove),
    s.HostMoves (.write off v) rest → s.engine ≠ .busy → off.toNat < 0x10000 →
    ∃ t, step s = .next t ∧ t = { s.takeMove rest with mem := t.mem } ∧
      t.written (off.toNat / 4) = true ∧ t.readValue off = v ∧ s.SameOutside t (4 * (off.toNat / 4)) 4

/-- R56: NT, AT, PT and BG_ELEM are packed little-endian: byte `j` of the word at `O + 4k` is element `4k + j`. -/
def Obligations.ByteArraysArePackedLittleEndian : Prop :=
  ∀ s : State, s.engine ≠ .busy →
    (∀ t < 256, (s.readValue (BitVec.ofNat 17 (0x10100 + 4 * (t / 4)))).extractLsb' (8 * (t % 4)) 8 = s.nt t) ∧
    (∀ k < 16, (s.readValue (BitVec.ofNat 17 (0x10200 + 4 * (k / 4)))).extractLsb' (8 * (k % 4)) 8 = s.attr k) ∧
    (∀ i < 4096, (s.readValue (BitVec.ofNat 17 (0x11000 + 4 * (i / 4)))).extractLsb' (8 * (i % 4)) 8 = s.pt i) ∧
    (∀ i < 16, (s.readValue (BitVec.ofNat 17 (0x10024 + 4 * (i / 4)))).extractLsb' (8 * (i % 4)) 8 = s.bgElemAt i)

/-- R59: a host read changes nothing of the block, at any offset and any time. -/
def Obligations.HostReadsHaveNoSideEffects : Prop :=
  ∀ (s : State) (off : Offset) (rest : List HostMove), s.HostMoves (.read off) rest →
    ∃ t, step s = .next t ∧ t.block = s.block ∧ t.inbox = rest ∧ t.reads = s.readValue off :: s.reads

/-- R62: while BUSY, STATUS and the inputs read their current value; an engine output reads an unspecified value,
drawn anew for each read. The free value and the counter `draws` are the model's form of it (log 9). -/
def Obligations.ReadsWhileBusy : Prop :=
  ∀ (s : State) (off : Offset), s.engine = .busy →
    (off.toNat / 4 = 0x4001 → (s.readValue off).toNat % 4 = 1 ∧ s.readValue off = s.statusWord) ∧
    (off.toNat / 4 < 0x4000 → s.readValue off = s.pixmem (off.toNat / 4)) ∧
    (off.toNat / 4 = 0x4004 → s.readValue off = s.gridDim) ∧
    (off.toNat / 4 = 0x4008 → s.readValue off = s.bgLen.setWidth 32) ∧
    (∀ k : Fin 4, off.toNat / 4 = 0x4009 + k.val → s.readValue off = s.bgElem[k]) ∧
    ((off.toNat / 4 ∈ [0x4002, 0x4003, 0x4005, 0x4006, 0x4007, 0x4010, 0x4011] ∨
        (0x4040 ≤ off.toNat / 4 ∧ off.toNat / 4 < 0x4084) ∨ (0x4400 ≤ off.toNat / 4 ∧ off.toNat / 4 < 0x4800)) →
      s.readValue off = Config.busyRead s.draws ∧
      ∀ rest, s.HostMoves (.read off) rest → ∃ t, step s = .next t ∧ t.draws = s.draws + 1)

/-- R26, R28: the bits of STATUS and of ERR, when the engine is not BUSY. -/
def Obligations.StatusAndErrorWords : Prop :=
  ∀ s : State, s.engine ≠ .busy →
    (s.readValue 0x10004).toNat =
      (match s.engine with | .idle => 0 | .busy => 1 | .done => 2 | .error => 3) + 4 * s.dropped.toNat ∧
    (s.readValue 0x10008).toNat =
      (match s.err.code with
        | .noError => 0 | .dimension => 1 | .unknownColor => 2 | .malformedBitGroup => 3
        | .illegalCommand => 4 | .illegalOperand => 5 | .registryFull => 6) +
      16 * s.err.sub.toNat + 256 * s.err.infoA.toNat + 65536 * s.err.infoB.toNat ∧
    s.readValue 0x1000C = s.errCmd

/-- R31, R32, R33, R36: DISTINCT reads REG_COUNT, PT_LEN 16 * REG_COUNT, RESULT its 9 bits, BP_LO and BP_HI the bits of
BP. The premise is the invariant that at most 256 tiles are registered. -/
def Obligations.ViewsOfRegistryResultAndPalettes : Prop :=
  ∀ s : State, s.engine ≠ .busy → s.regCount ≤ 256 →
    (s.readValue 0x10014).toNat = s.regCount ∧
    (s.readValue 0x10018).toNat = 16 * s.regCount ∧
    (s.readValue 0x1001C).toNat = s.result.toNat ∧
    (∀ i < 32, (s.readValue 0x10040).getLsbD i = s.blockPalette i) ∧
    (∀ i < 32, (s.readValue 0x10044).getLsbD i = s.blockPalette (32 + i))

/-! ### Reset (70_reset_and_hazards.md, 10_state.md) -/

/-- R42: the state after reset. (INFLIGHT, which R42 leaves unspecified, is not stated.) No PIXMEM word is written. -/
def Obligations.ResetState : Prop :=
  State.reset.engine = .idle ∧ State.reset.dropped = false ∧ State.reset.err = ⟨.noError, 0, 0, 0⟩ ∧
  State.reset.errCmd = 0 ∧ State.reset.gridDim = 0 ∧ State.reset.regCount = 0 ∧ State.reset.result = 0 ∧
  State.reset.bgLen = 0 ∧ (∀ i < 16, State.reset.bgElemAt i = 0) ∧ (∀ t < 256, State.reset.nt t = 0) ∧
  (∀ i < 4096, State.reset.pt i = 0) ∧ (∀ b < 64, State.reset.blockPalette b = false) ∧
  (∀ k < 16, State.reset.attr k = 0) ∧ (∀ i < 16384, State.reset.written i = false)

/-- R230, R231, R232: hardware reset, at any time, BUSY too: the reset state, the command in flight abandoned with none of
its effects, and the colour table not changed. That it is one step of the host's is the model's (log 17, DEDUCED), that
INFLIGHT is 0 after it, where R41 and R42 leave INFLIGHT unspecified, is the model's choice (log 6, DESIGN CHOICE), and so
is the counter `resets` (log 5, DESIGN CHOICE). -/
def Obligations.HardwareReset : Prop :=
  ∀ (s : State) (rest : List HostMove), s.HostMoves .reset rest →
    ∃ t, step s = .next t ∧ t.inbox = rest ∧ t.colours = s.colours ∧
      t.block = { State.reset with colours := s.colours, resets := s.resets + 1 }.block

/-! ### Extraction and validation (40_extract_validate.md) -/

/-- R104: the extraction formula, and that every pixel of the grid belongs to exactly one tile. -/
def Obligations.TileExtraction : Prop :=
  (∀ (s : State) (t p : Nat), p < 64 →
    (s.tile t).pixel p = s.pixmem ((8 * (t / 16) + p / 8) * 128 + 8 * (t % 16) + p % 8)) ∧
  (∀ i < 16384, ∃ t p, t < 256 ∧ p < 64 ∧ tilePixel t p = i ∧
    ∀ t' p', t' < 256 → p' < 64 → tilePixel t' p' = i → t' = t ∧ p' = p)

/-- R106: CHKDIM. -/
def Obligations.ChkdimChecksTheDimensions : Prop :=
  ∀ s : State,
    (s.dimensionsOk → exec .chkdim s = .next { s with result := 0, engine := .done }) ∧
    (¬ s.dimensionsOk → exec .chkdim s = .next (s.afterError .dimension 0 0 0))

/-- R107: VALIDATE: the answer, DIMENSION, and the fault on unwritten PIXMEM (R45). That any unwritten word of the tile
faults, even above a bad colour, is the model's choice (log 3, log 4). -/
def Obligations.ValidateAnswersValidity : Prop :=
  ∀ (s : State) (t : BitVec 8),
    (s.dimensionsOk → s.TileWritten t.toNat → s.TileValid t.toNat →
      exec (.validate t) s = .next { s with result := 1, engine := .done }) ∧
    (s.dimensionsOk → s.TileWritten t.toNat → ¬ s.TileValid t.toNat →
      exec (.validate t) s = .next { s with result := 0, engine := .done }) ∧
    (¬ s.dimensionsOk → exec (.validate t) s = .next (s.afterError .dimension 0 0 0)) ∧
    (s.dimensionsOk → ¬ s.TileWritten t.toNat →
      ∃ p < 64, s.written (tilePixel t.toNat p) = false ∧
        exec (.validate t) s = .fault (.unwrittenInput (tilePixel t.toNat p)))

/-- R105: "Validity reads only the 64 pixels of tile `t`": two states that agree on those words, the grid's dimensions
and the colours get the same answer. -/
def Obligations.ValidityReadsOnlyItsTile : Prop :=
  ∀ (s s' : State) (t : BitVec 8), s.dimensionsOk → s'.dimensionsOk → s.colours = s'.colours →
    (∀ p < 64, s.written (tilePixel t.toNat p) = true ∧ s'.written (tilePixel t.toNat p) = true ∧
      s.pixmem (tilePixel t.toNat p) = s'.pixmem (tilePixel t.toNat p)) →
    ∃ u u', exec (.validate t) s = .next u ∧ exec (.validate t) s' = .next u' ∧ u.result = u'.result

/-! ### The registry (41_registry.md) -/

/-- R120: REGISTER: a tile found, a new tile, and the errors in their order; and the fault on unwritten PIXMEM (R45). That
any unwritten word of the tile faults, even above a bad colour, is the model's choice (log 3, log 4). -/
def Obligations.RegisterLooksUpOrInserts : Prop :=
  ∀ (s : State) (t : BitVec 8),
    (¬ s.dimensionsOk → exec (.register t) s = .next (s.afterError .dimension 0 0 0)) ∧
    (s.dimensionsOk → ¬ s.TileWritten t.toNat →
      ∃ p < 64, s.written (tilePixel t.toNat p) = false ∧
        exec (.register t) s = .fault (.unwrittenInput (tilePixel t.toNat p))) ∧
    (∀ p, s.dimensionsOk → s.TileWritten t.toNat → s.FirstBad t.toNat p →
      exec (.register t) s = .next (s.afterError .unknownColor 0 t (BitVec.ofNat 6 p))) ∧
    (∀ id, s.dimensionsOk → s.TileWritten t.toNat → s.TileValid t.toNat → id < 256 →
      s.regTile[id]? = some (s.tile t.toNat) → (∀ j < id, s.regTile[j]? ≠ some (s.tile t.toNat)) →
      ∃ u, exec (.register t) s = .next u ∧
        u = { s with mem := u.mem, result := BitVec.ofNat 9 id, engine := .done } ∧
        u.nt t.toNat = BitVec.ofNat 8 id ∧ s.SameOutside u (ntBase + t.toNat) 1) ∧
    (s.dimensionsOk → s.TileWritten t.toNat → s.TileValid t.toNat → s.tile t.toNat ∉ s.regTile →
      s.regCount < 256 →
      ∃ u, exec (.register t) s = .next u ∧
        u = { s with
          mem := u.mem, regTile := s.regTile ++ [s.tile t.toNat]
          result := BitVec.ofNat 9 (256 + s.regCount), engine := .done } ∧
        u.nt t.toNat = BitVec.ofNat 8 s.regCount ∧ s.SameOutside u (ntBase + t.toNat) 1) ∧
    (s.dimensionsOk → s.TileWritten t.toNat → s.TileValid t.toNat → s.tile t.toNat ∉ s.regTile →
      256 ≤ s.regCount → exec (.register t) s = .next (s.afterError .registryFull 0 t 0))

/-- R122: every command keeps the registry injective, dense (an ID is a place in `regTile`, at most 256 of them) and
valid; and monotonic: every command but CLEAR and RUN only appends to it. -/
def Obligations.RegistryStaysInjectiveDenseMonotonicValid : Prop :=
  ∀ (i : Instr) (s t : State), s.RegistryOk → exec i s = .next t →
    t.RegistryOk ∧ (i ≠ .clear → i ≠ .run → ∃ new, t.regTile = s.regTile ++ new)

/-! ### Patterns (42_pattern.md) -/

/-- R133, R132: ENCODE writes the pattern entry of the registered tile: byte `r` of the low plane and byte `8 + r` of the
high plane hold, in bit `7 - c`, the two bits of the slot of pixel `8r + c`; an unregistered ID is ILLEGAL_OPERAND. -/
def Obligations.EncodeWritesThePatternEntry : Prop :=
  ∀ (s : State) (id : BitVec 8),
    (∀ T, s.regTile[id.toNat]? = some T →
      ∃ u, exec (.encode id) s = .next u ∧
        u = { s with mem := u.mem, result := id.setWidth 9, engine := .done } ∧
        (∀ r < 8, ∀ c < 8,
          (u.pt (16 * id.toNat + r)).getLsbD (7 - c) = (s.colours.slot (T.pixel (8 * r + c))).getLsbD 0 ∧
          (u.pt (16 * id.toNat + 8 + r)).getLsbD (7 - c) = (s.colours.slot (T.pixel (8 * r + c))).getLsbD 1) ∧
        s.SameOutside u (ptBase + 16 * id.toNat) 16) ∧
    (s.regCount ≤ id.toNat → exec (.encode id) s = .next (s.afterError .illegalOperand 0 id 0))

/-- R135: the round trip: the slots reconstructed from a tile's pattern entry are the tile's slots; and those slots are the
numbers of R101: GREY 0, LGREEN and WHITE 2, DGREEN and PINK 3, and BLACK 1, which rests on the spec's decision D10
(log 2). -/
def Obligations.PatternEntryRoundTrip : Prop :=
  ∀ (colours : ColourTable) (T : Tile) (cl : Colour) (r c : Nat), r < 8 → c < 8 →
    T.pixel (8 * r + c) = colours.pix cl →
    let n := (patternByte colours T (8 + r)).toNat / 2 ^ (7 - c) % 2 * 2 +
      (patternByte colours T r).toNat / 2 ^ (7 - c) % 2
    cl.slot.toNat = n ∧
    (cl = .grey → n = 0) ∧ (cl = .black → n = 1) ∧ (cl = .lgreen ∨ cl = .white → n = 2) ∧
    (cl = .dgreen ∨ cl = .pink → n = 3)

/-- R134, R130: PACK8: element `i` lands in bit `7 - i`; the errors, the length first, then the lowest bad index.
`BG_ELEM[8..15]` are never read. -/
def Obligations.Pack8PacksTheBitGroup : Prop :=
  ∀ s : State,
    (s.bgLen = 8 → (∀ i < 8, s.bgElemAt i = 0 ∨ s.bgElemAt i = 1) →
      ∃ x : Byte, exec .pack8 s = .next { s with result := x.setWidth 9, engine := .done } ∧
        ∀ i < 8, x.getLsbD (7 - i) = decide (s.bgElemAt i = 1)) ∧
    (s.bgLen ≠ 8 → exec .pack8 s = .next (s.afterError .malformedBitGroup 0 s.bgLen 0)) ∧
    (∀ i < 8, s.bgLen = 8 → s.bgElemAt i ≠ 0 → s.bgElemAt i ≠ 1 →
      (∀ j < i, s.bgElemAt j = 0 ∨ s.bgElemAt j = 1) →
      exec .pack8 s = .next (s.afterError .malformedBitGroup 1 (s.bgElemAt i) (BitVec.ofNat 6 i)))

/-! ### Block palettes and attributes (43_classifier.md, 44_attribute.md) -/

/-- R150, R152, R153: CLASSIFY: BP[b] says whether a WHITE or PINK pixel stands in the four tiles t, t+1, t+16, t+17 of
the block; the errors in their order; and the fault on unwritten PIXMEM (R45). That a tile is read whole before its
validity is judged, tiles in their order, is the model's choice (log 3, log 4). -/
def Obligations.ClassifyFindsMarkerPixels : Prop :=
  ∀ (s : State) (b : BitVec 8),
    let t0 := 32 * (b.toNat / 8) + 2 * (b.toNat % 8)
    let ts := [t0, t0 + 1, t0 + 16, t0 + 17]
    (64 ≤ b.toNat → exec (.classify b) s = .next (s.afterError .illegalOperand 0 b 0)) ∧
    (b.toNat < 64 → ¬ s.dimensionsOk → exec (.classify b) s = .next (s.afterError .dimension 0 0 0)) ∧
    (∀ before t after, b.toNat < 64 → s.dimensionsOk → ts = before ++ t :: after →
      (∀ u ∈ before, s.TileWritten u ∧ s.TileValid u) → ¬ s.TileWritten t →
      ∃ p < 64, s.written (tilePixel t p) = false ∧
        exec (.classify b) s = .fault (.unwrittenInput (tilePixel t p))) ∧
    (∀ before t after p, b.toNat < 64 → s.dimensionsOk → ts = before ++ t :: after →
      (∀ u ∈ before, s.TileWritten u ∧ s.TileValid u) → s.TileWritten t → s.FirstBad t p →
      exec (.classify b) s =
        .next (s.afterError .unknownColor 0 (BitVec.ofNat 8 t) (BitVec.ofNat 6 p))) ∧
    (b.toNat < 64 → s.dimensionsOk → (∀ t ∈ ts, s.TileWritten t ∧ s.TileValid t) →
      ∃ u, exec (.classify b) s = .next u ∧
        u = { s with bp := u.bp, result := (BitVec.ofBool (u.blockPalette b.toNat)).setWidth 9, engine := .done } ∧
        (u.blockPalette b.toNat = true ↔
          ∃ t ∈ ts, ∃ p < 64, s.pixmem (tilePixel t p) = s.colours.white ∨
            s.pixmem (tilePixel t p) = s.colours.pink) ∧
        ∀ j, j ≠ b.toNat → u.blockPalette j = s.blockPalette j)

/-- R152, R160: every tile position belongs to exactly one block, and every block to exactly one super-block. -/
def Obligations.BlocksAndSuperBlocksPartition : Prop :=
  (∀ t < 256, ∃ b < 64, t ∈ blockTiles b ∧ ∀ b' < 64, t ∈ blockTiles b' → b' = b) ∧
  (∀ b < 64, ∃ k < 16, b ∈ superBlocks k ∧ ∀ k' < 16, b ∈ superBlocks k' → k' = k)

/-- R162, R160, R161: PACKATTR: the bits of the four blocks b, b+1, b+8, b+9 in bits 0, 2, 4 and 6, all else 0. -/
def Obligations.PackattrPacksFourBlocks : Prop :=
  ∀ (s : State) (k : BitVec 8),
    let b := 16 * (k.toNat / 4) + 2 * (k.toNat % 4)
    (16 ≤ k.toNat → exec (.packattr k) s = .next (s.afterError .illegalOperand 0 k 0)) ∧
    (k.toNat < 16 →
      ∃ u, exec (.packattr k) s = .next u ∧
        u = { s with mem := u.mem, result := (u.attr k.toNat).setWidth 9, engine := .done } ∧
        (u.attr k.toNat).toNat = (s.blockPalette b).toNat + 4 * (s.blockPalette (b + 1)).toNat +
          16 * (s.blockPalette (b + 8)).toNat + 64 * (s.blockPalette (b + 9)).toNat ∧
        s.SameOutside u (atBase + k.toNat) 1)

/-! ### NOP, CLEAR and RUN (45_control.md) -/

/-- R171: NOP changes nothing and does not pass through BUSY; while ERROR or BUSY its write is dropped. -/
def Obligations.NopChangesNothing : Prop :=
  (∀ s : State, exec .nop s = .next s) ∧
  (∀ (s : State) (off : Offset) (rest : List HostMove), s.HostMoves (.write off 0) rest → off.toNat / 4 = 0x4000 →
    (s.engine = .idle ∨ s.engine = .done → ∃ t, step s = .next t ∧ t.block = s.block) ∧
    (s.engine = .error ∨ s.engine = .busy → ∃ t, step s = .next t ∧ t.block = { s with dropped := true }.block))

/-- R172: CLEAR: what it sets, and that PIXMEM, GRID_DIM, BG_LEN and BG_ELEM are not written. -/
def Obligations.ClearResetsTheEngine : Prop :=
  ∀ s : State, ∃ t, exec .clear s = .next t ∧
    t = { s with
      regTile := [], mem := t.mem, bp := 0, result := 0, err := ⟨.noError, 0, 0, 0⟩, errCmd := 0
      dropped := false, engine := .idle } ∧
    (∀ k < 256, t.nt k = 0) ∧ (∀ i < 4096, t.pt i = 0) ∧ (∀ k < 16, t.attr k = 0) ∧
    (∀ a, a < ntBase ∨ (ntBase + 256 ≤ a ∧ a < atBase) ∨ (atBase + 16 ≤ a ∧ a < ptBase) ∨ ptBase + 4096 ≤ a →
      Memory.read t.mem a = Memory.read s.mem a)

/-- R173: RUN completes on a loaded grid of known colours, writes the registry, NT, PT, BP, AT and RESULT, and nothing
else. -/
def Obligations.RunCompletesOnValidGrids : Prop :=
  ∀ s : State, s.dimensionsOk → (∀ t < 256, s.TileWritten t ∧ s.TileValid t) →
    ∃ u, exec .run s = .next u ∧
      u = { s with
        mem := u.mem, bp := u.bp, regTile := u.regTile, result := BitVec.ofNat 9 u.regCount, engine := .done } ∧
      1 ≤ u.regCount ∧ u.regCount ≤ 256 ∧
      (∀ a, a < ntBase ∨ (ntBase + 256 ≤ a ∧ a < atBase) ∨ (atBase + 16 ≤ a ∧ a < ptBase) ∨ ptBase + 4096 ≤ a →
        Memory.read u.mem a = Memory.read s.mem a)

/-- R173: RUN's errors, all in phase 1: DIMENSION, then UNKNOWN_COLOR for the lowest tile position that is not valid; the
state is otherwise exactly as before RUN. And the fault on unwritten PIXMEM (R45): that a tile is read whole before its
validity is judged, tiles in ascending order, is the model's choice (log 3, log 4). -/
def Obligations.RunErrorsComeBeforeAnyWrite : Prop :=
  ∀ s : State,
    (¬ s.dimensionsOk → exec .run s = .next (s.afterError .dimension 0 0 0)) ∧
    (∀ t < 256, s.dimensionsOk → (∀ u < t, s.TileWritten u ∧ s.TileValid u) → ¬ s.TileWritten t →
      ∃ p < 64, s.written (tilePixel t p) = false ∧
        exec .run s = .fault (.unwrittenInput (tilePixel t p))) ∧
    (∀ t p, s.dimensionsOk → t < 256 → (∀ u < t, s.TileWritten u ∧ s.TileValid u) → s.TileWritten t →
      s.FirstBad t p →
      exec .run s = .next (s.afterError .unknownColor 0 (BitVec.ofNat 8 t) (BitVec.ofNat 6 p)))

/-- R124 after RUN: NT[k] is the ID of tile k; two tiles are equal exactly when their IDs are; NT[0] = 0; each new ID is
one more than the largest so far; D is the number of distinct tiles. -/
def Obligations.RunNametable : Prop :=
  ∀ s u : State, exec .run s = .next u → u.engine = .done →
    (∀ k < 256, u.regTile[(u.nt k).toNat]? = some (s.tile k)) ∧
    (∀ j < 256, ∀ k < 256, s.tile j = s.tile k ↔ u.nt j = u.nt k) ∧
    u.nt 0 = 0 ∧
    (∀ k, 0 < k → k < 256 → ∃ j < k, (u.nt k).toNat ≤ (u.nt j).toNat + 1) ∧
    (∀ id < u.regCount, ∃ k < 256, (u.nt k).toNat = id) ∧
    1 ≤ u.regCount ∧ u.regCount ≤ 256

/-- R137: after RUN the pattern table is the pattern entries in ID order, and zero after them. -/
def Obligations.RunPatternTable : Prop :=
  ∀ s u : State, exec .run s = .next u → u.engine = .done →
    (∀ id T, u.regTile[id]? = some T → ∀ k < 16, u.pt (16 * id + k) = patternByte u.colours T k) ∧
    (∀ i, 16 * u.regCount ≤ i → i < 4096 → u.pt i = 0) ∧
    (u.readValue 0x10018).toNat = 16 * u.regCount

/-- R175 after RUN: BP[b] is 1 exactly when block b holds a WHITE or PINK pixel, and AT[k] is the attribute byte of the
four block bits of super-block k. -/
def Obligations.RunPalettesAndAttributes : Prop :=
  ∀ s u : State, exec .run s = .next u → u.engine = .done →
    (∀ b < 64, u.blockPalette b = true ↔
      ∃ t ∈ blockTiles b, ∃ p < 64, s.pixmem (tilePixel t p) = s.colours.white ∨
        s.pixmem (tilePixel t p) = s.colours.pink) ∧
    (∀ k < 16, ∀ b0 b1 b2 b3, superBlocks k = [b0, b1, b2, b3] →
      (u.attr k).toNat = (u.blockPalette b0).toNat + 4 * (u.blockPalette b1).toNat +
        16 * (u.blockPalette b2).toNat + 64 * (u.blockPalette b3).toNat)

/-- R174: RUN's phases 2 to 5 give the same state as REGISTER 0 .. 255, ENCODE 0 .. D-1, CLASSIFY 0 .. 63, PACKATTR 0 ..
15 run from the state after phase 1 with the registry and PT cleared; RESULT differs: RUN leaves D, the sequence AT[15]. -/
def Obligations.RunIsTheStageSequence : Prop :=
  ∀ s u : State, exec .run s = .next u → u.engine = .done →
    ∃ v, execAll
        ((List.range 256).map (fun t => .register (BitVec.ofNat 8 t)) ++
          (List.range u.regCount).map (fun id => .encode (BitVec.ofNat 8 id)) ++
          (List.range 64).map (fun b => .classify (BitVec.ofNat 8 b)) ++
          (List.range 16).map (fun k => .packattr (BitVec.ofNat 8 k)))
        s.startRun = .next v ∧
      v = { u with result := (u.attr 15).setWidth 9 } ∧ u.result = BitVec.ofNat 9 u.regCount

/-- R173: "RUN ignores the registry, NT, PT, BP and AT left by earlier commands and rebuilds them all": two states with the
same written grid, dimensions and colours give the same artifacts. -/
def Obligations.RunDependsOnTheGridAlone : Prop :=
  ∀ s s' : State, s.dimensionsOk → s'.dimensionsOk → s.colours = s'.colours →
    (∀ i < 16384, s.written i = true ∧ s'.written i = true ∧ s.pixmem i = s'.pixmem i) →
    (∀ t < 256, s.TileValid t) →
    ∃ u u', exec .run s = .next u ∧ exec .run s' = .next u' ∧
      u.regTile = u'.regTile ∧ u.result = u'.result ∧ u.bp = u'.bp ∧
      (∀ k < 256, u.nt k = u'.nt k) ∧ (∀ i < 4096, u.pt i = u'.pt i) ∧ (∀ k < 16, u.attr k = u'.attr k)

/-! ### Errors (60_exceptions.md) -/

/-- R206: errors are precise: a command that ends in ERROR changes ERR, ERR_CMD and STATUS.STATE, and nothing else. -/
def Obligations.ErrorEntryIsPrecise : Prop :=
  ∀ (i : Instr) (s t : State), exec i s = .next t → s.engine ≠ .error → t.engine = .error →
    t.err.code ≠ .noError ∧ t.errCmd = s.inflight ∧
    t = { s with err := t.err, errCmd := t.errCmd, engine := .error }

/-- R200: which commands raise which error. -/
def Obligations.ErrorCodesByCommand : Prop :=
  ∀ (i : Instr) (s t : State), exec i s = .next t → s.engine ≠ .error → t.engine = .error →
    (t.err.code = .dimension →
      i = .chkdim ∨ i = .run ∨ ∃ a, i = .validate a ∨ i = .register a ∨ i = .classify a) ∧
    (t.err.code = .unknownColor → i = .run ∨ ∃ a, i = .register a ∨ i = .classify a) ∧
    (t.err.code = .malformedBitGroup → i = .pack8) ∧
    (t.err.code = .illegalOperand → ∃ a, i = .encode a ∨ i = .classify a ∨ i = .packattr a) ∧
    (t.err.code = .registryFull → ∃ a, i = .register a) ∧
    t.err.code ≠ .illegalCommand ∧ t.err.code ≠ .noError

/-- R210: the only ways out of ERROR are CLEAR and hardware reset: a step that leaves ERROR is the reset, or the acceptance
of CLEAR's exact word; and a completed CLEAR is IDLE with ERR and ERR_CMD zero. -/
def Obligations.OnlyClearOrResetLeavesError : Prop :=
  (∀ s t : State, step s = .next t → s.engine = .error → t.engine ≠ .error →
    (∃ rest, s.inbox = .reset :: rest ∧ t.engine = .idle ∧ t.err = ⟨.noError, 0, 0, 0⟩ ∧ t.errCmd = 0) ∨
    (∃ off rest, s.inbox = .write off 0x00000002 :: rest ∧ off.toNat / 4 = 0x4000 ∧
      t.engine = .busy ∧ t.inflight = 0x00000002)) ∧
  (∀ s : State, s.completionDue = true → s.inflight = 0x00000002 →
    ∃ t, step s = .next t ∧ t.engine = .idle ∧ t.err = ⟨.noError, 0, 0, 0⟩ ∧ t.errCmd = 0)

/-- R45: the model faults exactly on unwritten input: a command that faults read a PIXMEM word never written since
reset. -/
def Obligations.FaultsAreUnwrittenInput : Prop :=
  ∀ (i : Instr) (s : State) (f : Fault), exec i s = .fault f →
    s.dimensionsOk ∧ ∃ j < 16384, f = .unwrittenInput j ∧ s.written j = false

/-- R233: once the host has written every word of PIXMEM, every step has a next state. -/
def Obligations.LoadedMachinesNeverStop : Prop :=
  ∀ s : State, s.Loaded → ∃ t, step s = .next t

/-! ### The whole machine -/

/-- R251: "it never writes PIXMEM, GRID_DIM, BG_LEN or BG_ELEM": no command changes a host input, nor the colour table
(R38), nor what the host will do. -/
def Obligations.EngineNeverWritesInputs : Prop :=
  ∀ (i : Instr) (s t : State), exec i s = .next t →
    (∀ a < 0x10000, Memory.read t.mem a = Memory.read s.mem a) ∧ t.gridDim = s.gridDim ∧ t.bgLen = s.bgLen ∧
    t.bgElem = s.bgElem ∧ t.colours = s.colours ∧ t.inflight = s.inflight ∧ t.inbox = s.inbox ∧ t.reads = s.reads

/-- Frame of the commands that write no array (CHKDIM, VALIDATE, PACK8): only RESULT and STATUS.STATE, or error entry. -/
def Obligations.FrameOfRegisterOnlyCommands : Prop :=
  ∀ (i : Instr) (s t : State), (i = .chkdim ∨ i = .pack8 ∨ ∃ a, i = .validate a) → exec i s = .next t →
    t = { s with result := t.result, engine := .done } ∨
    t = { s with err := t.err, errCmd := s.inflight, engine := .error }

/-- Frame of the commands that store (REGISTER, ENCODE, PACKATTR): outside the stored bytes all memory reads as before; the
registry changes only by REGISTER; of the registers only RESULT and STATUS.STATE change, or error entry. -/
def Obligations.FrameOfStoringCommands : Prop :=
  ∀ (i : Instr) (s t : State), (∃ a, i = .register a ∨ i = .encode a ∨ i = .packattr a) → exec i s = .next t →
    (t = { s with mem := t.mem, regTile := t.regTile, result := t.result, engine := .done } ∧
      ((∀ a, i ≠ .register a) → t.regTile = s.regTile) ∧
      s.SameOutside t (storedBytes i).1 (storedBytes i).2) ∨
    t = { s with err := t.err, errCmd := s.inflight, engine := .error }

/-- Frame of CLASSIFY: of BP only bit `b`, RESULT and STATUS.STATE, all memory as before; or error entry. -/
def Obligations.FrameOfClassify : Prop :=
  ∀ (b : BitVec 8) (s t : State), exec (.classify b) s = .next t →
    (t = { s with bp := t.bp, result := t.result, engine := .done } ∧
      ∀ j, j ≠ b.toNat → t.blockPalette j = s.blockPalette j) ∨
    t = { s with err := t.err, errCmd := s.inflight, engine := .error }

/-- The invariant holds at reset. -/
def Obligations.InvariantAtReset : Prop := State.reset.Inv

/-- The invariant is kept by every step, from every state that meets it: memory stays canonical and inside the map, the
registry injective and valid, the error record as R206 and R210 say, the attribute bytes as R161 says. -/
def Obligations.EveryStepKeepsTheInvariant : Prop :=
  ∀ s t : State, s.Inv → step s = .next t → t.Inv

/-- R38, R232: the colour table is constant: no step changes it. -/
def Obligations.ColourTableIsConstant : Prop :=
  ∀ s t : State, step s = .next t → t.colours = s.colours

/-- R82: `SETTILEPIX t, p, v` writes pixel `p` of tile `t`. -/
def Obligations.SetTilePixWritesTheTilePixel : Prop :=
  ∀ (t p : Nat) (v : Word), t < 256 → p < 64 →
    ∃ off : Offset, setTilePixMove t p v = .write off v ∧ portOf off = .pixmem (tilePixel t p)
end

