-- ==== Sys2Proof/Laws/Colour.lean ====
section
/-! SUPPORT. The colour table: colour resolution is a function (R102), because the pixel values are pairwise distinct
(R100). -/

namespace Sys2Proof

variable (t : ColourTable)

@[simp] theorem ColourTable.pix_grey : t.pix .grey = t.grey := rfl
@[simp] theorem ColourTable.pix_black : t.pix .black = t.black := rfl
@[simp] theorem ColourTable.pix_lgreen : t.pix .lgreen = t.lgreen := rfl
@[simp] theorem ColourTable.pix_dgreen : t.pix .dgreen = t.dgreen := rfl
@[simp] theorem ColourTable.pix_white : t.pix .white = t.white := rfl
@[simp] theorem ColourTable.pix_pink : t.pix .pink = t.pink := rfl

theorem Colour.mem_all (c : Colour) : c ∈ Colour.all := by cases c <;> decide

/-- R100: no two colours have the same pixel value. -/
theorem ColourTable.pix_injective {c d : Colour} (h : t.pix c = t.pix d) : c = d := by
  have hd := t.distinct
  simp only [List.nodup_cons, List.mem_cons, List.not_mem_nil, not_or, or_false, not_false_eq_true, List.nodup_nil,
    and_true] at hd
  cases c <;> cases d <;> simp only [ColourTable.pix] at h <;> first | rfl | (simp_all)

/-- `color_of` (R102): the colour whose pixel value it is. -/
theorem ColourTable.colourOf_eq_some {v : Word} {c : Colour} : t.colourOf v = some c ↔ t.pix c = v := by
  constructor
  · intro h
    simpa using List.find?_some h
  · intro h
    subst h
    obtain ⟨d, hd⟩ : ∃ d, t.colourOf (t.pix c) = some d := by
      apply Option.isSome_iff_exists.mp
      exact List.find?_isSome.mpr ⟨c, c.mem_all, by simp⟩
    rw [hd]
    have : t.pix d = t.pix c := by simpa using List.find?_some hd
    rw [t.pix_injective this]

@[simp] theorem ColourTable.colourOf_pix (c : Colour) : t.colourOf (t.pix c) = some c :=
  t.colourOf_eq_some.mpr rfl

/-- `color_of` (R102): NONE exactly when no colour has the value. -/
theorem ColourTable.colourOf_eq_none {v : Word} : t.colourOf v = none ↔ ∀ c, t.pix c ≠ v := by
  constructor
  · intro h c hc
    rw [t.colourOf_eq_some.mpr hc] at h
    exact Option.some_ne_none c h
  · intro h
    cases hc : t.colourOf v with
    | none => rfl
    | some c => exact absurd (t.colourOf_eq_some.mp hc) (h c)

/-- `known(v)` (R102). -/
theorem ColourTable.known_iff {v : Word} : t.known v = true ↔ ∃ c, t.pix c = v := by
  unfold ColourTable.known
  rw [Option.isSome_iff_exists]
  exact exists_congr fun c => t.colourOf_eq_some

@[simp] theorem ColourTable.slot_pix (c : Colour) : t.slot (t.pix c) = c.slot := by
  simp [ColourTable.slot]

@[simp] theorem ColourTable.marks_pix (c : Colour) : t.marks (t.pix c) = c.isMarker := by
  simp [ColourTable.marks]

/-- The marker colours are WHITE and PINK (R153). -/
theorem ColourTable.marks_iff {v : Word} : t.marks v = true ↔ v = t.white ∨ v = t.pink := by
  rw [← t.pix_white, ← t.pix_pink]
  unfold ColourTable.marks
  cases h : t.colourOf v with
  | none =>
    have h := t.colourOf_eq_none.mp h
    exact iff_of_false (by simp) (by rintro (hv | hv) <;> exact h _ hv.symm)
  | some c =>
    have hc := t.colourOf_eq_some.mp h
    subst hc
    constructor
    · cases c <;> simp [Colour.isMarker]
    · rintro (h | h) <;> rw [t.pix_injective h] <;> rfl

end Sys2Proof
end

