-- ==== Sys2Proof/Laws/Memory.lean ====
section
/-! SUPPORT. Memory: read after write, everything else left alone, and every operation keeps the canonical form. -/

namespace Sys2Proof.Machine

variable (m : Memory)

/-! ### One byte -/

theorem Memory.read_put (a : Nat) (b : Byte) (x : Nat) :
    Memory.read (Memory.put m a b) x = if x = a then some b else Memory.read m x := by
  induction m with
  | nil => simp only [Memory.put, Memory.read, eq_comm]
  | cons cell rest ih =>
    obtain ⟨y, c⟩ := cell
    simp only [Memory.put]
    split
    · next h =>
      simp only [Memory.read, ih]
      split
      · next hy => rw [if_neg (by omega)]
      · rfl
    · split
      · next h => subst h; simp only [Memory.read, eq_comm]; split <;> rfl
      · next h => simp only [Memory.read, eq_comm]

theorem Memory.read_filter (p : Nat → Bool) (x : Nat) :
    Memory.read (m.filter (fun cell => p cell.1)) x = if p x then Memory.read m x else Memory.unlisted x := by
  induction m with
  | nil => simp [Memory.read]
  | cons cell rest ih =>
    obtain ⟨y, c⟩ := cell
    by_cases hy : p y
    · rw [List.filter_cons_of_pos (by simpa using hy)]
      simp only [Memory.read, ih]
      by_cases hx : y = x
      · subst hx; simp [hy]
      · simp [hx]
    · rw [List.filter_cons_of_neg (by simpa using hy), ih]
      by_cases hx : y = x
      · subst hx; simp [hy]
      · simp [Memory.read, hx]

/-- Read after write, and nothing else changes. -/
@[simp] theorem Memory.read_write (a : Nat) (b : Byte) (x : Nat) :
    Memory.read (Memory.write m a b) x = if x = a then some b else Memory.read m x := by
  unfold Memory.write
  split
  · next h =>
    have := Memory.read_filter m (fun y => decide (y ≠ a)) x
    rw [this]
    by_cases hx : x = a
    · subst hx; simp [h]
    · simp [hx]
  · exact Memory.read_put m a b x

/-! ### Ranges -/

theorem Memory.writeRange_succ (base n : Nat) (f : Nat → Byte) :
    Memory.writeRange m base (n + 1) f = Memory.write (Memory.writeRange m base n f) (base + n) (f n) := by
  simp [Memory.writeRange, List.range_succ]

@[simp] theorem Memory.writeRange_zero (base : Nat) (f : Nat → Byte) : Memory.writeRange m base 0 f = m := rfl

/-- Read after the store of a range, and nothing else changes. -/
@[simp] theorem Memory.read_writeRange (base n : Nat) (f : Nat → Byte) (x : Nat) :
    Memory.read (Memory.writeRange m base n f) x =
      if base ≤ x ∧ x < base + n then some (f (x - base)) else Memory.read m x := by
  induction n with
  | zero => rw [if_neg (by omega), Memory.writeRange_zero]
  | succ n ih =>
    rw [Memory.writeRange_succ, Memory.read_write, ih]
    by_cases hx : x = base + n
    · subst hx
      rw [if_pos rfl, if_pos (by omega), Nat.add_sub_cancel_left]
    · rw [if_neg hx]
      by_cases hr : base ≤ x ∧ x < base + n
      · rw [if_pos hr, if_pos (by omega)]
      · rw [if_neg hr, if_neg (by omega)]

/-- A forgotten range reads as unlisted, and nothing else changes. -/
@[simp] theorem Memory.read_forget (base n x : Nat) :
    Memory.read (Memory.forget m base n) x =
      if base ≤ x ∧ x < base + n then Memory.unlisted x else Memory.read m x := by
  have := Memory.read_filter m (fun y => decide (¬ (base ≤ y ∧ y < base + n))) x
  unfold Memory.forget
  rw [this]
  by_cases hr : base ≤ x ∧ x < base + n
  · simp [hr]
  · rw [if_pos (decide_eq_true hr), if_neg hr]

/-! ### The canonical form -/

theorem Memory.risingFrom_mono {lo lo' : Nat} (h : lo' ≤ lo) (hm : Memory.risingFrom lo m = true) :
    Memory.risingFrom lo' m = true := by
  cases m with
  | nil => rfl
  | cons cell rest =>
    obtain ⟨y, c⟩ := cell
    simp only [Memory.risingFrom, Bool.and_eq_true, decide_eq_true_eq] at hm ⊢
    exact ⟨⟨by omega, hm.1.2⟩, hm.2⟩

theorem Memory.risingFrom_filter (p : Nat → Bool) (lo : Nat) (hm : Memory.risingFrom lo m = true) :
    Memory.risingFrom lo (m.filter (fun cell => p cell.1)) = true := by
  induction m generalizing lo with
  | nil => rfl
  | cons cell rest ih =>
    obtain ⟨y, c⟩ := cell
    simp only [Memory.risingFrom, Bool.and_eq_true, decide_eq_true_eq] at hm
    by_cases hy : p y
    · rw [List.filter_cons_of_pos (by simpa using hy)]
      simp only [Memory.risingFrom, Bool.and_eq_true, decide_eq_true_eq]
      exact ⟨hm.1, ih _ hm.2⟩
    · rw [List.filter_cons_of_neg (by simpa using hy)]
      exact ih _ (Memory.risingFrom_mono rest (by omega) hm.2)

theorem Memory.risingFrom_put (lo a : Nat) (b : Byte) (hlo : lo ≤ a) (hb : Memory.unlisted a ≠ some b)
    (hm : Memory.risingFrom lo m = true) : Memory.risingFrom lo (Memory.put m a b) = true := by
  induction m generalizing lo with
  | nil => simp [Memory.put, Memory.risingFrom, hlo, hb]
  | cons cell rest ih =>
    obtain ⟨y, c⟩ := cell
    have hm' := hm
    simp only [Memory.risingFrom, Bool.and_eq_true, decide_eq_true_eq] at hm
    simp only [Memory.put]
    split
    · simp only [Memory.risingFrom, Bool.and_eq_true, decide_eq_true_eq]
      exact ⟨hm.1, ih (y + 1) (by omega) hm.2⟩
    · split
      · next h =>
        subst h
        simp only [Memory.risingFrom, Bool.and_eq_true, decide_eq_true_eq]
        exact ⟨⟨hlo, hb⟩, hm.2⟩
      · simp only [Memory.risingFrom, Bool.and_eq_true, decide_eq_true_eq]
        exact ⟨⟨hlo, hb⟩, ⟨by omega, hm.1.2⟩, hm.2⟩

theorem Memory.wf_filter (p : Nat → Bool) (hm : Memory.wf m = true) :
    Memory.wf (m.filter (fun cell => p cell.1)) = true :=
  Memory.risingFrom_filter m p 0 hm

/-- A write keeps the canonical form. -/
theorem Memory.wf_write (a : Nat) (b : Byte) (hm : Memory.wf m = true) :
    Memory.wf (Memory.write m a b) = true := by
  unfold Memory.write
  split
  · exact Memory.wf_filter m (fun y => decide (y ≠ a)) hm
  · next h => exact Memory.risingFrom_put m 0 a b (Nat.zero_le a) h hm

/-- The store of a range keeps the canonical form. -/
theorem Memory.wf_writeRange (base n : Nat) (f : Nat → Byte) (hm : Memory.wf m = true) :
    Memory.wf (Memory.writeRange m base n f) = true := by
  induction n with
  | zero => exact hm
  | succ n ih => rw [Memory.writeRange_succ]; exact Memory.wf_write _ _ _ ih

/-- Forgetting a range keeps the canonical form. -/
theorem Memory.wf_forget (base n : Nat) (hm : Memory.wf m = true) :
    Memory.wf (Memory.forget m base n) = true :=
  Memory.wf_filter m (fun y => decide (¬ (base ≤ y ∧ y < base + n))) hm

/-- The store of a word keeps the canonical form. -/
theorem Memory.wf_writeWord (a : Nat) (w : Word) (hm : Memory.wf m = true) :
    Memory.wf (Memory.writeWord m a w) = true :=
  Memory.wf_writeRange m a 4 (byteOf w) hm

/-! ### Which cells are listed -/

theorem Memory.mem_put {m : Memory} {a : Nat} {b : Byte} {cell : Host.Cell} (h : cell ∈ Memory.put m a b) :
    cell = (a, b) ∨ cell ∈ m := by
  induction m with
  | nil => simpa [Memory.put] using h
  | cons c rest ih =>
    obtain ⟨y, d⟩ := c
    simp only [Memory.put] at h
    split at h
    · rcases List.mem_cons.mp h with h | h
      · exact .inr (by simp [h])
      · exact (ih h).imp_right (List.mem_cons_of_mem _)
    · split at h
      · rcases List.mem_cons.mp h with h | h
        · exact .inl h
        · exact .inr (List.mem_cons_of_mem _ h)
      · rcases List.mem_cons.mp h with h | h
        · exact .inl h
        · exact .inr h

/-- A cell listed after a write is the one written or was listed before. -/
theorem Memory.mem_write {m : Memory} {a : Nat} {b : Byte} {cell : Host.Cell} (h : cell ∈ Memory.write m a b) :
    cell = (a, b) ∨ cell ∈ m := by
  unfold Memory.write at h
  split at h
  · exact .inr (List.mem_filter.mp h).1
  · exact Memory.mem_put h

theorem Memory.mem_writeRange {m : Memory} {base n : Nat} {f : Nat → Byte} {cell : Host.Cell}
    (h : cell ∈ Memory.writeRange m base n f) : (base ≤ cell.1 ∧ cell.1 < base + n) ∨ cell ∈ m := by
  induction n with
  | zero => exact .inr h
  | succ n ih =>
    rw [Memory.writeRange_succ] at h
    rcases Memory.mem_write h with h | h
    · subst h; exact .inl ⟨by simp, by simp⟩
    · exact (ih h).imp_left fun h => ⟨h.1, by omega⟩

theorem Memory.mem_forget {m : Memory} {base n : Nat} {cell : Host.Cell} (h : cell ∈ Memory.forget m base n) :
    cell ∈ m := (List.mem_filter.mp h).1

/-! ### Bytes and words -/

theorem Memory.unlisted_output {a : Nat} (h : 0x10000 ≤ a) : Memory.unlisted a = some 0 := by
  unfold Memory.unlisted; rw [if_neg (by omega)]

theorem Memory.unlisted_pixmem {a : Nat} (h : a < 0x10000) : Memory.unlisted a = none := by
  unfold Memory.unlisted; rw [if_pos h]

@[simp] theorem Memory.byte_write (a : Nat) (b : Byte) (x : Nat) :
    Memory.byte (Memory.write m a b) x = if x = a then b else Memory.byte m x := by
  unfold Memory.byte; rw [Memory.read_write]; split <;> rfl

@[simp] theorem Memory.byte_writeRange (base n : Nat) (f : Nat → Byte) (x : Nat) :
    Memory.byte (Memory.writeRange m base n f) x =
      if base ≤ x ∧ x < base + n then f (x - base) else Memory.byte m x := by
  unfold Memory.byte; rw [Memory.read_writeRange]; split <;> rfl

theorem Memory.byte_forget (base n x : Nat) :
    Memory.byte (Memory.forget m base n) x = if base ≤ x ∧ x < base + n then 0 else Memory.byte m x := by
  unfold Memory.byte
  rw [Memory.read_forget]
  split
  · unfold Memory.unlisted; split <;> rfl
  · rfl

/-- Equal bytes, equal words. -/
theorem Memory.word?_congr {m m' : Memory} {a : Nat}
    (h : ∀ k < 4, Memory.read m (a + k) = Memory.read m' (a + k)) : Memory.word? m a = Memory.word? m' a := by
  have h0 := h 0 (by omega)
  have h1 := h 1 (by omega)
  have h2 := h 2 (by omega)
  have h3 := h 3 (by omega)
  simp only [Nat.add_zero] at h0
  simp only [Memory.word?, h0, h1, h2, h3]

theorem wordOf_byteOf (w : Word) : wordOf (byteOf w 0) (byteOf w 1) (byteOf w 2) (byteOf w 3) = w := by
  apply BitVec.eq_of_getLsbD_eq
  intro i hi
  simp only [wordOf, byteOf, BitVec.getLsbD_or, BitVec.getLsbD_setWidth, BitVec.getLsbD_shiftLeft,
    BitVec.getLsbD_extractLsb', hi, decide_true, Bool.true_and]
  have : i / 8 = 0 ∨ i / 8 = 1 ∨ i / 8 = 2 ∨ i / 8 = 3 := by omega
  rcases this with h | h | h | h
  · have h8 : i < 8 := by omega
    have h16 : i < 16 := by omega
    have h24 : i < 24 := by omega
    simp [h8, h16, h24]
  · have h8 : ¬ i < 8 := by omega
    have h16 : i < 16 := by omega
    have h24 : i < 24 := by omega
    simp [h8, h16, h24, show i - 8 < 8 by omega, show i - 8 < 32 by omega, show 8 + (i - 8) = i by omega]
  · have h8 : ¬ i < 8 := by omega
    have h16 : ¬ i < 16 := by omega
    have h24 : i < 24 := by omega
    simp [h8, h16, h24, show ¬ i - 8 < 8 by omega, show i - 16 < 8 by omega, show i - 16 < 32 by omega,
      show 16 + (i - 16) = i by omega]
  · have h8 : ¬ i < 8 := by omega
    have h16 : ¬ i < 16 := by omega
    have h24 : ¬ i < 24 := by omega
    simp [h8, h16, h24, show ¬ i - 8 < 8 by omega, show ¬ i - 16 < 8 by omega, show i - 24 < 8 by omega,
      show i - 24 < 32 by omega, show 24 + (i - 24) = i by omega]

/-- A word reads back as it was stored. -/
@[simp] theorem Memory.word?_writeWord_self (a : Nat) (w : Word) :
    Memory.word? (Memory.writeWord m a w) a = some w := by
  unfold Memory.word? Memory.writeWord
  simp only [Memory.read_writeRange]
  rw [if_pos (by omega), if_pos (by omega), if_pos (by omega), if_pos (by omega)]
  simp only [Nat.sub_self, Nat.add_sub_cancel_left, wordOf_byteOf]

/-- Words that do not overlap the stored one are left alone. -/
theorem Memory.word?_writeWord_of_disjoint (a x : Nat) (w : Word) (h : x + 4 ≤ a ∨ a + 4 ≤ x) :
    Memory.word? (Memory.writeWord m a w) x = Memory.word? m x := by
  apply Memory.word?_congr
  intro k hk
  unfold Memory.writeWord
  rw [Memory.read_writeRange, if_neg (by omega)]

end Sys2Proof.Machine
end

