-- ==== Sys2Proof/Laws/State.lean ====
section
/-! SUPPORT. What each update of State does to each field, so that no later proof unfolds a record update. -/

namespace Sys2Proof.Machine

variable (s : State)

/-! ### Error entry (R206) -/

@[simp] theorem State.enterError_mem (e : ErrRecord) : (s.enterError e).mem = s.mem := rfl
@[simp] theorem State.enterError_bp (e : ErrRecord) : (s.enterError e).bp = s.bp := rfl
@[simp] theorem State.enterError_regTile (e : ErrRecord) : (s.enterError e).regTile = s.regTile := rfl
@[simp] theorem State.enterError_engine (e : ErrRecord) : (s.enterError e).engine = .error := rfl
@[simp] theorem State.enterError_dropped (e : ErrRecord) : (s.enterError e).dropped = s.dropped := rfl
@[simp] theorem State.enterError_err (e : ErrRecord) : (s.enterError e).err = e := rfl
@[simp] theorem State.enterError_errCmd (e : ErrRecord) : (s.enterError e).errCmd = s.inflight := rfl
@[simp] theorem State.enterError_gridDim (e : ErrRecord) : (s.enterError e).gridDim = s.gridDim := rfl
@[simp] theorem State.enterError_result (e : ErrRecord) : (s.enterError e).result = s.result := rfl
@[simp] theorem State.enterError_bgLen (e : ErrRecord) : (s.enterError e).bgLen = s.bgLen := rfl
@[simp] theorem State.enterError_bgElem (e : ErrRecord) : (s.enterError e).bgElem = s.bgElem := rfl
@[simp] theorem State.enterError_inflight (e : ErrRecord) : (s.enterError e).inflight = s.inflight := rfl
@[simp] theorem State.enterError_colours (e : ErrRecord) : (s.enterError e).colours = s.colours := rfl
@[simp] theorem State.enterError_inbox (e : ErrRecord) : (s.enterError e).inbox = s.inbox := rfl
@[simp] theorem State.enterError_reads (e : ErrRecord) : (s.enterError e).reads = s.reads := rfl
@[simp] theorem State.enterError_latencyLeft (e : ErrRecord) : (s.enterError e).latencyLeft = s.latencyLeft := rfl
@[simp] theorem State.enterError_draws (e : ErrRecord) : (s.enterError e).draws = s.draws := rfl
@[simp] theorem State.enterError_resets (e : ErrRecord) : (s.enterError e).resets = s.resets := rfl

/-! ### The end of a command without error -/

@[simp] theorem State.finish_mem (r : BitVec 9) : (s.finish r).mem = s.mem := rfl
@[simp] theorem State.finish_bp (r : BitVec 9) : (s.finish r).bp = s.bp := rfl
@[simp] theorem State.finish_regTile (r : BitVec 9) : (s.finish r).regTile = s.regTile := rfl
@[simp] theorem State.finish_engine (r : BitVec 9) : (s.finish r).engine = .done := rfl
@[simp] theorem State.finish_dropped (r : BitVec 9) : (s.finish r).dropped = s.dropped := rfl
@[simp] theorem State.finish_err (r : BitVec 9) : (s.finish r).err = s.err := rfl
@[simp] theorem State.finish_errCmd (r : BitVec 9) : (s.finish r).errCmd = s.errCmd := rfl
@[simp] theorem State.finish_gridDim (r : BitVec 9) : (s.finish r).gridDim = s.gridDim := rfl
@[simp] theorem State.finish_result (r : BitVec 9) : (s.finish r).result = r := rfl
@[simp] theorem State.finish_bgLen (r : BitVec 9) : (s.finish r).bgLen = s.bgLen := rfl
@[simp] theorem State.finish_bgElem (r : BitVec 9) : (s.finish r).bgElem = s.bgElem := rfl
@[simp] theorem State.finish_inflight (r : BitVec 9) : (s.finish r).inflight = s.inflight := rfl
@[simp] theorem State.finish_colours (r : BitVec 9) : (s.finish r).colours = s.colours := rfl
@[simp] theorem State.finish_inbox (r : BitVec 9) : (s.finish r).inbox = s.inbox := rfl
@[simp] theorem State.finish_reads (r : BitVec 9) : (s.finish r).reads = s.reads := rfl
@[simp] theorem State.finish_latencyLeft (r : BitVec 9) : (s.finish r).latencyLeft = s.latencyLeft := rfl
@[simp] theorem State.finish_draws (r : BitVec 9) : (s.finish r).draws = s.draws := rfl
@[simp] theorem State.finish_resets (r : BitVec 9) : (s.finish r).resets = s.resets := rfl

/-! ### CLEAR (R172) -/

@[simp] theorem State.clearEngine_mem :
    s.clearEngine.mem =
      Memory.forget (Memory.forget (Memory.forget s.mem ntBase 256) atBase 16) ptBase 4096 := rfl
@[simp] theorem State.clearEngine_bp : s.clearEngine.bp = 0 := rfl
@[simp] theorem State.clearEngine_regTile : s.clearEngine.regTile = [] := rfl
@[simp] theorem State.clearEngine_engine : s.clearEngine.engine = .idle := rfl
@[simp] theorem State.clearEngine_dropped : s.clearEngine.dropped = false := rfl
@[simp] theorem State.clearEngine_err : s.clearEngine.err = ErrRecord.zero := rfl
@[simp] theorem State.clearEngine_errCmd : s.clearEngine.errCmd = 0 := rfl
@[simp] theorem State.clearEngine_gridDim : s.clearEngine.gridDim = s.gridDim := rfl
@[simp] theorem State.clearEngine_result : s.clearEngine.result = 0 := rfl
@[simp] theorem State.clearEngine_bgLen : s.clearEngine.bgLen = s.bgLen := rfl
@[simp] theorem State.clearEngine_bgElem : s.clearEngine.bgElem = s.bgElem := rfl
@[simp] theorem State.clearEngine_inflight : s.clearEngine.inflight = s.inflight := rfl
@[simp] theorem State.clearEngine_colours : s.clearEngine.colours = s.colours := rfl
@[simp] theorem State.clearEngine_inbox : s.clearEngine.inbox = s.inbox := rfl
@[simp] theorem State.clearEngine_reads : s.clearEngine.reads = s.reads := rfl
@[simp] theorem State.clearEngine_latencyLeft : s.clearEngine.latencyLeft = s.latencyLeft := rfl
@[simp] theorem State.clearEngine_draws : s.clearEngine.draws = s.draws := rfl
@[simp] theorem State.clearEngine_resets : s.clearEngine.resets = s.resets := rfl

/-! ### Hardware reset (R230) -/

@[simp] theorem State.hardReset_mem : s.hardReset.mem = [] := rfl
@[simp] theorem State.hardReset_bp : s.hardReset.bp = 0 := rfl
@[simp] theorem State.hardReset_regTile : s.hardReset.regTile = [] := rfl
@[simp] theorem State.hardReset_engine : s.hardReset.engine = .idle := rfl
@[simp] theorem State.hardReset_dropped : s.hardReset.dropped = false := rfl
@[simp] theorem State.hardReset_err : s.hardReset.err = ErrRecord.zero := rfl
@[simp] theorem State.hardReset_errCmd : s.hardReset.errCmd = 0 := rfl
@[simp] theorem State.hardReset_gridDim : s.hardReset.gridDim = 0 := rfl
@[simp] theorem State.hardReset_result : s.hardReset.result = 0 := rfl
@[simp] theorem State.hardReset_bgLen : s.hardReset.bgLen = 0 := rfl
@[simp] theorem State.hardReset_bgElem : s.hardReset.bgElem = Vector.replicate 4 0 := rfl
@[simp] theorem State.hardReset_inflight : s.hardReset.inflight = 0 := rfl
@[simp] theorem State.hardReset_colours : s.hardReset.colours = s.colours := rfl
@[simp] theorem State.hardReset_inbox : s.hardReset.inbox = s.inbox := rfl
@[simp] theorem State.hardReset_reads : s.hardReset.reads = s.reads := rfl
@[simp] theorem State.hardReset_latencyLeft : s.hardReset.latencyLeft = 0 := rfl
@[simp] theorem State.hardReset_draws : s.hardReset.draws = s.draws := rfl
@[simp] theorem State.hardReset_resets : s.hardReset.resets = s.resets + 1 := rfl

/-! ### A dropped write (R209) -/

@[simp] theorem State.drop_mem : s.drop.mem = s.mem := rfl
@[simp] theorem State.drop_bp : s.drop.bp = s.bp := rfl
@[simp] theorem State.drop_regTile : s.drop.regTile = s.regTile := rfl
@[simp] theorem State.drop_engine : s.drop.engine = s.engine := rfl
@[simp] theorem State.drop_dropped : s.drop.dropped = true := rfl
@[simp] theorem State.drop_err : s.drop.err = s.err := rfl
@[simp] theorem State.drop_errCmd : s.drop.errCmd = s.errCmd := rfl
@[simp] theorem State.drop_gridDim : s.drop.gridDim = s.gridDim := rfl
@[simp] theorem State.drop_result : s.drop.result = s.result := rfl
@[simp] theorem State.drop_bgLen : s.drop.bgLen = s.bgLen := rfl
@[simp] theorem State.drop_bgElem : s.drop.bgElem = s.bgElem := rfl
@[simp] theorem State.drop_inflight : s.drop.inflight = s.inflight := rfl
@[simp] theorem State.drop_colours : s.drop.colours = s.colours := rfl
@[simp] theorem State.drop_inbox : s.drop.inbox = s.inbox := rfl
@[simp] theorem State.drop_reads : s.drop.reads = s.reads := rfl
@[simp] theorem State.drop_latencyLeft : s.drop.latencyLeft = s.latencyLeft := rfl
@[simp] theorem State.drop_draws : s.drop.draws = s.draws := rfl
@[simp] theorem State.drop_resets : s.drop.resets = s.resets := rfl

/-! ### Acceptance (R170) -/

@[simp] theorem State.accept_mem (w : Word) : (s.accept w).mem = s.mem := rfl
@[simp] theorem State.accept_bp (w : Word) : (s.accept w).bp = s.bp := rfl
@[simp] theorem State.accept_regTile (w : Word) : (s.accept w).regTile = s.regTile := rfl
@[simp] theorem State.accept_engine (w : Word) : (s.accept w).engine = .busy := rfl
@[simp] theorem State.accept_dropped (w : Word) : (s.accept w).dropped = s.dropped := rfl
@[simp] theorem State.accept_err (w : Word) : (s.accept w).err = s.err := rfl
@[simp] theorem State.accept_errCmd (w : Word) : (s.accept w).errCmd = s.errCmd := rfl
@[simp] theorem State.accept_gridDim (w : Word) : (s.accept w).gridDim = s.gridDim := rfl
@[simp] theorem State.accept_result (w : Word) : (s.accept w).result = s.result := rfl
@[simp] theorem State.accept_bgLen (w : Word) : (s.accept w).bgLen = s.bgLen := rfl
@[simp] theorem State.accept_bgElem (w : Word) : (s.accept w).bgElem = s.bgElem := rfl
@[simp] theorem State.accept_inflight (w : Word) : (s.accept w).inflight = w := rfl
@[simp] theorem State.accept_colours (w : Word) : (s.accept w).colours = s.colours := rfl
@[simp] theorem State.accept_inbox (w : Word) : (s.accept w).inbox = s.inbox := rfl
@[simp] theorem State.accept_reads (w : Word) : (s.accept w).reads = s.reads := rfl
@[simp] theorem State.accept_latencyLeft (w : Word) : (s.accept w).latencyLeft = Config.latency s.draws := rfl
@[simp] theorem State.accept_draws (w : Word) : (s.accept w).draws = s.draws + 1 := rfl
@[simp] theorem State.accept_resets (w : Word) : (s.accept w).resets = s.resets := rfl

/-! ### A host move taken -/

@[simp] theorem State.takeMove_mem (ms : List HostMove) : (s.takeMove ms).mem = s.mem := rfl
@[simp] theorem State.takeMove_bp (ms : List HostMove) : (s.takeMove ms).bp = s.bp := rfl
@[simp] theorem State.takeMove_regTile (ms : List HostMove) : (s.takeMove ms).regTile = s.regTile := rfl
@[simp] theorem State.takeMove_engine (ms : List HostMove) : (s.takeMove ms).engine = s.engine := rfl
@[simp] theorem State.takeMove_dropped (ms : List HostMove) : (s.takeMove ms).dropped = s.dropped := rfl
@[simp] theorem State.takeMove_err (ms : List HostMove) : (s.takeMove ms).err = s.err := rfl
@[simp] theorem State.takeMove_errCmd (ms : List HostMove) : (s.takeMove ms).errCmd = s.errCmd := rfl
@[simp] theorem State.takeMove_gridDim (ms : List HostMove) : (s.takeMove ms).gridDim = s.gridDim := rfl
@[simp] theorem State.takeMove_result (ms : List HostMove) : (s.takeMove ms).result = s.result := rfl
@[simp] theorem State.takeMove_bgLen (ms : List HostMove) : (s.takeMove ms).bgLen = s.bgLen := rfl
@[simp] theorem State.takeMove_bgElem (ms : List HostMove) : (s.takeMove ms).bgElem = s.bgElem := rfl
@[simp] theorem State.takeMove_inflight (ms : List HostMove) : (s.takeMove ms).inflight = s.inflight := rfl
@[simp] theorem State.takeMove_colours (ms : List HostMove) : (s.takeMove ms).colours = s.colours := rfl
@[simp] theorem State.takeMove_inbox (ms : List HostMove) : (s.takeMove ms).inbox = ms := rfl
@[simp] theorem State.takeMove_reads (ms : List HostMove) : (s.takeMove ms).reads = s.reads := rfl
@[simp] theorem State.takeMove_latencyLeft (ms : List HostMove) : (s.takeMove ms).latencyLeft = s.latencyLeft - 1 := rfl
@[simp] theorem State.takeMove_draws (ms : List HostMove) : (s.takeMove ms).draws = s.draws := rfl
@[simp] theorem State.takeMove_resets (ms : List HostMove) : (s.takeMove ms).resets = s.resets := rfl

/-! ### A host read (R59) -/

@[simp] theorem State.hostRead_mem (off : Offset) : (s.hostRead off).mem = s.mem := rfl
@[simp] theorem State.hostRead_bp (off : Offset) : (s.hostRead off).bp = s.bp := rfl
@[simp] theorem State.hostRead_regTile (off : Offset) : (s.hostRead off).regTile = s.regTile := rfl
@[simp] theorem State.hostRead_engine (off : Offset) : (s.hostRead off).engine = s.engine := rfl
@[simp] theorem State.hostRead_dropped (off : Offset) : (s.hostRead off).dropped = s.dropped := rfl
@[simp] theorem State.hostRead_err (off : Offset) : (s.hostRead off).err = s.err := rfl
@[simp] theorem State.hostRead_errCmd (off : Offset) : (s.hostRead off).errCmd = s.errCmd := rfl
@[simp] theorem State.hostRead_gridDim (off : Offset) : (s.hostRead off).gridDim = s.gridDim := rfl
@[simp] theorem State.hostRead_result (off : Offset) : (s.hostRead off).result = s.result := rfl
@[simp] theorem State.hostRead_bgLen (off : Offset) : (s.hostRead off).bgLen = s.bgLen := rfl
@[simp] theorem State.hostRead_bgElem (off : Offset) : (s.hostRead off).bgElem = s.bgElem := rfl
@[simp] theorem State.hostRead_inflight (off : Offset) : (s.hostRead off).inflight = s.inflight := rfl
@[simp] theorem State.hostRead_colours (off : Offset) : (s.hostRead off).colours = s.colours := rfl
@[simp] theorem State.hostRead_inbox (off : Offset) : (s.hostRead off).inbox = s.inbox := rfl
@[simp] theorem State.hostRead_reads (off : Offset) : (s.hostRead off).reads = s.readValue off :: s.reads := rfl
@[simp] theorem State.hostRead_latencyLeft (off : Offset) : (s.hostRead off).latencyLeft = s.latencyLeft := rfl
@[simp] theorem State.hostRead_draws (off : Offset) : (s.hostRead off).draws = s.draws + 1 := rfl
@[simp] theorem State.hostRead_resets (off : Offset) : (s.hostRead off).resets = s.resets := rfl

/-! ### NT[t] <- b -/

@[simp] theorem State.setNt_mem (t : Nat) (b : Byte) : (s.setNt t b).mem = Memory.write s.mem (ntBase + t) b := rfl
@[simp] theorem State.setNt_bp (t : Nat) (b : Byte) : (s.setNt t b).bp = s.bp := rfl
@[simp] theorem State.setNt_regTile (t : Nat) (b : Byte) : (s.setNt t b).regTile = s.regTile := rfl
@[simp] theorem State.setNt_engine (t : Nat) (b : Byte) : (s.setNt t b).engine = s.engine := rfl
@[simp] theorem State.setNt_dropped (t : Nat) (b : Byte) : (s.setNt t b).dropped = s.dropped := rfl
@[simp] theorem State.setNt_err (t : Nat) (b : Byte) : (s.setNt t b).err = s.err := rfl
@[simp] theorem State.setNt_errCmd (t : Nat) (b : Byte) : (s.setNt t b).errCmd = s.errCmd := rfl
@[simp] theorem State.setNt_gridDim (t : Nat) (b : Byte) : (s.setNt t b).gridDim = s.gridDim := rfl
@[simp] theorem State.setNt_result (t : Nat) (b : Byte) : (s.setNt t b).result = s.result := rfl
@[simp] theorem State.setNt_bgLen (t : Nat) (b : Byte) : (s.setNt t b).bgLen = s.bgLen := rfl
@[simp] theorem State.setNt_bgElem (t : Nat) (b : Byte) : (s.setNt t b).bgElem = s.bgElem := rfl
@[simp] theorem State.setNt_inflight (t : Nat) (b : Byte) : (s.setNt t b).inflight = s.inflight := rfl
@[simp] theorem State.setNt_colours (t : Nat) (b : Byte) : (s.setNt t b).colours = s.colours := rfl
@[simp] theorem State.setNt_inbox (t : Nat) (b : Byte) : (s.setNt t b).inbox = s.inbox := rfl
@[simp] theorem State.setNt_reads (t : Nat) (b : Byte) : (s.setNt t b).reads = s.reads := rfl
@[simp] theorem State.setNt_latencyLeft (t : Nat) (b : Byte) : (s.setNt t b).latencyLeft = s.latencyLeft := rfl
@[simp] theorem State.setNt_draws (t : Nat) (b : Byte) : (s.setNt t b).draws = s.draws := rfl
@[simp] theorem State.setNt_resets (t : Nat) (b : Byte) : (s.setNt t b).resets = s.resets := rfl

/-! ### AT[k] <- b -/

@[simp] theorem State.setAttr_mem (k : Nat) (b : Byte) : (s.setAttr k b).mem = Memory.write s.mem (atBase + k) b := rfl
@[simp] theorem State.setAttr_bp (k : Nat) (b : Byte) : (s.setAttr k b).bp = s.bp := rfl
@[simp] theorem State.setAttr_regTile (k : Nat) (b : Byte) : (s.setAttr k b).regTile = s.regTile := rfl
@[simp] theorem State.setAttr_engine (k : Nat) (b : Byte) : (s.setAttr k b).engine = s.engine := rfl
@[simp] theorem State.setAttr_dropped (k : Nat) (b : Byte) : (s.setAttr k b).dropped = s.dropped := rfl
@[simp] theorem State.setAttr_err (k : Nat) (b : Byte) : (s.setAttr k b).err = s.err := rfl
@[simp] theorem State.setAttr_errCmd (k : Nat) (b : Byte) : (s.setAttr k b).errCmd = s.errCmd := rfl
@[simp] theorem State.setAttr_gridDim (k : Nat) (b : Byte) : (s.setAttr k b).gridDim = s.gridDim := rfl
@[simp] theorem State.setAttr_result (k : Nat) (b : Byte) : (s.setAttr k b).result = s.result := rfl
@[simp] theorem State.setAttr_bgLen (k : Nat) (b : Byte) : (s.setAttr k b).bgLen = s.bgLen := rfl
@[simp] theorem State.setAttr_bgElem (k : Nat) (b : Byte) : (s.setAttr k b).bgElem = s.bgElem := rfl
@[simp] theorem State.setAttr_inflight (k : Nat) (b : Byte) : (s.setAttr k b).inflight = s.inflight := rfl
@[simp] theorem State.setAttr_colours (k : Nat) (b : Byte) : (s.setAttr k b).colours = s.colours := rfl
@[simp] theorem State.setAttr_inbox (k : Nat) (b : Byte) : (s.setAttr k b).inbox = s.inbox := rfl
@[simp] theorem State.setAttr_reads (k : Nat) (b : Byte) : (s.setAttr k b).reads = s.reads := rfl
@[simp] theorem State.setAttr_latencyLeft (k : Nat) (b : Byte) : (s.setAttr k b).latencyLeft = s.latencyLeft := rfl
@[simp] theorem State.setAttr_draws (k : Nat) (b : Byte) : (s.setAttr k b).draws = s.draws := rfl
@[simp] theorem State.setAttr_resets (k : Nat) (b : Byte) : (s.setAttr k b).resets = s.resets := rfl

/-! ### BP[b] <- v -/

@[simp] theorem State.setBlockPalette_mem (b : Nat) (v : Bool) : (s.setBlockPalette b v).mem = s.mem := rfl
@[simp] theorem State.setBlockPalette_bp (b : Nat) (v : Bool) : (s.setBlockPalette b v).bp = setBit s.bp b v := rfl
@[simp] theorem State.setBlockPalette_regTile (b : Nat) (v : Bool) : (s.setBlockPalette b v).regTile = s.regTile := rfl
@[simp] theorem State.setBlockPalette_engine (b : Nat) (v : Bool) : (s.setBlockPalette b v).engine = s.engine := rfl
@[simp] theorem State.setBlockPalette_dropped (b : Nat) (v : Bool) : (s.setBlockPalette b v).dropped = s.dropped := rfl
@[simp] theorem State.setBlockPalette_err (b : Nat) (v : Bool) : (s.setBlockPalette b v).err = s.err := rfl
@[simp] theorem State.setBlockPalette_errCmd (b : Nat) (v : Bool) : (s.setBlockPalette b v).errCmd = s.errCmd := rfl
@[simp] theorem State.setBlockPalette_gridDim (b : Nat) (v : Bool) : (s.setBlockPalette b v).gridDim = s.gridDim := rfl
@[simp] theorem State.setBlockPalette_result (b : Nat) (v : Bool) : (s.setBlockPalette b v).result = s.result := rfl
@[simp] theorem State.setBlockPalette_bgLen (b : Nat) (v : Bool) : (s.setBlockPalette b v).bgLen = s.bgLen := rfl
@[simp] theorem State.setBlockPalette_bgElem (b : Nat) (v : Bool) : (s.setBlockPalette b v).bgElem = s.bgElem := rfl
@[simp] theorem State.setBlockPalette_inflight (b : Nat) (v : Bool) :
    (s.setBlockPalette b v).inflight =
      s.inflight := rfl
@[simp] theorem State.setBlockPalette_colours (b : Nat) (v : Bool) : (s.setBlockPalette b v).colours = s.colours := rfl
@[simp] theorem State.setBlockPalette_inbox (b : Nat) (v : Bool) : (s.setBlockPalette b v).inbox = s.inbox := rfl
@[simp] theorem State.setBlockPalette_reads (b : Nat) (v : Bool) : (s.setBlockPalette b v).reads = s.reads := rfl
@[simp] theorem State.setBlockPalette_latencyLeft (b : Nat) (v : Bool) :
    (s.setBlockPalette b v).latencyLeft =
      s.latencyLeft := rfl
@[simp] theorem State.setBlockPalette_draws (b : Nat) (v : Bool) : (s.setBlockPalette b v).draws = s.draws := rfl
@[simp] theorem State.setBlockPalette_resets (b : Nat) (v : Bool) : (s.setBlockPalette b v).resets = s.resets := rfl

/-! ### The registration of a tile (R120) -/

@[simp] theorem State.registerTile_mem (t : Nat) :
    (s.registerTile t).mem =
      Memory.write s.mem (ntBase + t) (BitVec.ofNat 8 (s.idOf t).2) := rfl
@[simp] theorem State.registerTile_bp (t : Nat) : (s.registerTile t).bp = s.bp := rfl
@[simp] theorem State.registerTile_regTile (t : Nat) :
    (s.registerTile t).regTile =
      if (s.idOf t).1 then s.regTile ++ [s.tile t] else s.regTile := rfl
@[simp] theorem State.registerTile_engine (t : Nat) : (s.registerTile t).engine = s.engine := rfl
@[simp] theorem State.registerTile_dropped (t : Nat) : (s.registerTile t).dropped = s.dropped := rfl
@[simp] theorem State.registerTile_err (t : Nat) : (s.registerTile t).err = s.err := rfl
@[simp] theorem State.registerTile_errCmd (t : Nat) : (s.registerTile t).errCmd = s.errCmd := rfl
@[simp] theorem State.registerTile_gridDim (t : Nat) : (s.registerTile t).gridDim = s.gridDim := rfl
@[simp] theorem State.registerTile_result (t : Nat) : (s.registerTile t).result = s.result := rfl
@[simp] theorem State.registerTile_bgLen (t : Nat) : (s.registerTile t).bgLen = s.bgLen := rfl
@[simp] theorem State.registerTile_bgElem (t : Nat) : (s.registerTile t).bgElem = s.bgElem := rfl
@[simp] theorem State.registerTile_inflight (t : Nat) : (s.registerTile t).inflight = s.inflight := rfl
@[simp] theorem State.registerTile_colours (t : Nat) : (s.registerTile t).colours = s.colours := rfl
@[simp] theorem State.registerTile_inbox (t : Nat) : (s.registerTile t).inbox = s.inbox := rfl
@[simp] theorem State.registerTile_reads (t : Nat) : (s.registerTile t).reads = s.reads := rfl
@[simp] theorem State.registerTile_latencyLeft (t : Nat) : (s.registerTile t).latencyLeft = s.latencyLeft := rfl
@[simp] theorem State.registerTile_draws (t : Nat) : (s.registerTile t).draws = s.draws := rfl
@[simp] theorem State.registerTile_resets (t : Nat) : (s.registerTile t).resets = s.resets := rfl

/-! ### The pattern entry of an ID (R133) -/

@[simp] theorem State.encodeTile_mem (id : Nat) :
    (s.encodeTile id).mem =
      Memory.writeRange s.mem (ptBase + 16 * id) 16 (patternByte s.colours (s.regTileAt id)) := rfl
@[simp] theorem State.encodeTile_bp (id : Nat) : (s.encodeTile id).bp = s.bp := rfl
@[simp] theorem State.encodeTile_regTile (id : Nat) : (s.encodeTile id).regTile = s.regTile := rfl
@[simp] theorem State.encodeTile_engine (id : Nat) : (s.encodeTile id).engine = s.engine := rfl
@[simp] theorem State.encodeTile_dropped (id : Nat) : (s.encodeTile id).dropped = s.dropped := rfl
@[simp] theorem State.encodeTile_err (id : Nat) : (s.encodeTile id).err = s.err := rfl
@[simp] theorem State.encodeTile_errCmd (id : Nat) : (s.encodeTile id).errCmd = s.errCmd := rfl
@[simp] theorem State.encodeTile_gridDim (id : Nat) : (s.encodeTile id).gridDim = s.gridDim := rfl
@[simp] theorem State.encodeTile_result (id : Nat) : (s.encodeTile id).result = s.result := rfl
@[simp] theorem State.encodeTile_bgLen (id : Nat) : (s.encodeTile id).bgLen = s.bgLen := rfl
@[simp] theorem State.encodeTile_bgElem (id : Nat) : (s.encodeTile id).bgElem = s.bgElem := rfl
@[simp] theorem State.encodeTile_inflight (id : Nat) : (s.encodeTile id).inflight = s.inflight := rfl
@[simp] theorem State.encodeTile_colours (id : Nat) : (s.encodeTile id).colours = s.colours := rfl
@[simp] theorem State.encodeTile_inbox (id : Nat) : (s.encodeTile id).inbox = s.inbox := rfl
@[simp] theorem State.encodeTile_reads (id : Nat) : (s.encodeTile id).reads = s.reads := rfl
@[simp] theorem State.encodeTile_latencyLeft (id : Nat) : (s.encodeTile id).latencyLeft = s.latencyLeft := rfl
@[simp] theorem State.encodeTile_draws (id : Nat) : (s.encodeTile id).draws = s.draws := rfl
@[simp] theorem State.encodeTile_resets (id : Nat) : (s.encodeTile id).resets = s.resets := rfl

/-! ### The palette bit of a block (R150) -/

@[simp] theorem State.classifyBlock_mem (b : Nat) : (s.classifyBlock b).mem = s.mem := State.setBlockPalette_mem s b _
@[simp] theorem State.classifyBlock_bp (b : Nat) :
    (s.classifyBlock b).bp =
      setBit s.bp b (s.classifyTiles (blockTiles b)) := State.setBlockPalette_bp s b _
@[simp] theorem State.classifyBlock_regTile (b : Nat) :
    (s.classifyBlock b).regTile =
      s.regTile := State.setBlockPalette_regTile s b _
@[simp] theorem State.classifyBlock_engine (b : Nat) :
    (s.classifyBlock b).engine =
      s.engine := State.setBlockPalette_engine s b _
@[simp] theorem State.classifyBlock_dropped (b : Nat) :
    (s.classifyBlock b).dropped =
      s.dropped := State.setBlockPalette_dropped s b _
@[simp] theorem State.classifyBlock_err (b : Nat) : (s.classifyBlock b).err = s.err := State.setBlockPalette_err s b _
@[simp] theorem State.classifyBlock_errCmd (b : Nat) :
    (s.classifyBlock b).errCmd =
      s.errCmd := State.setBlockPalette_errCmd s b _
@[simp] theorem State.classifyBlock_gridDim (b : Nat) :
    (s.classifyBlock b).gridDim =
      s.gridDim := State.setBlockPalette_gridDim s b _
@[simp] theorem State.classifyBlock_result (b : Nat) :
    (s.classifyBlock b).result =
      s.result := State.setBlockPalette_result s b _
@[simp] theorem State.classifyBlock_bgLen (b : Nat) :
    (s.classifyBlock b).bgLen =
      s.bgLen := State.setBlockPalette_bgLen s b _
@[simp] theorem State.classifyBlock_bgElem (b : Nat) :
    (s.classifyBlock b).bgElem =
      s.bgElem := State.setBlockPalette_bgElem s b _
@[simp] theorem State.classifyBlock_inflight (b : Nat) :
    (s.classifyBlock b).inflight =
      s.inflight := State.setBlockPalette_inflight s b _
@[simp] theorem State.classifyBlock_colours (b : Nat) :
    (s.classifyBlock b).colours =
      s.colours := State.setBlockPalette_colours s b _
@[simp] theorem State.classifyBlock_inbox (b : Nat) :
    (s.classifyBlock b).inbox =
      s.inbox := State.setBlockPalette_inbox s b _
@[simp] theorem State.classifyBlock_reads (b : Nat) :
    (s.classifyBlock b).reads =
      s.reads := State.setBlockPalette_reads s b _
@[simp] theorem State.classifyBlock_latencyLeft (b : Nat) :
    (s.classifyBlock b).latencyLeft =
      s.latencyLeft := State.setBlockPalette_latencyLeft s b _
@[simp] theorem State.classifyBlock_draws (b : Nat) :
    (s.classifyBlock b).draws =
      s.draws := State.setBlockPalette_draws s b _
@[simp] theorem State.classifyBlock_resets (b : Nat) :
    (s.classifyBlock b).resets =
      s.resets := State.setBlockPalette_resets s b _

/-! ### The attribute byte of a super-block (R162) -/

@[simp] theorem State.packSuper_mem (k : Nat) :
    (s.packSuper k).mem =
      Memory.write s.mem (atBase + k) (s.attrOf k) := State.setAttr_mem s k _
@[simp] theorem State.packSuper_bp (k : Nat) : (s.packSuper k).bp = s.bp := State.setAttr_bp s k _
@[simp] theorem State.packSuper_regTile (k : Nat) : (s.packSuper k).regTile = s.regTile := State.setAttr_regTile s k _
@[simp] theorem State.packSuper_engine (k : Nat) : (s.packSuper k).engine = s.engine := State.setAttr_engine s k _
@[simp] theorem State.packSuper_dropped (k : Nat) : (s.packSuper k).dropped = s.dropped := State.setAttr_dropped s k _
@[simp] theorem State.packSuper_err (k : Nat) : (s.packSuper k).err = s.err := State.setAttr_err s k _
@[simp] theorem State.packSuper_errCmd (k : Nat) : (s.packSuper k).errCmd = s.errCmd := State.setAttr_errCmd s k _
@[simp] theorem State.packSuper_gridDim (k : Nat) : (s.packSuper k).gridDim = s.gridDim := State.setAttr_gridDim s k _
@[simp] theorem State.packSuper_result (k : Nat) : (s.packSuper k).result = s.result := State.setAttr_result s k _
@[simp] theorem State.packSuper_bgLen (k : Nat) : (s.packSuper k).bgLen = s.bgLen := State.setAttr_bgLen s k _
@[simp] theorem State.packSuper_bgElem (k : Nat) : (s.packSuper k).bgElem = s.bgElem := State.setAttr_bgElem s k _
@[simp] theorem State.packSuper_inflight (k : Nat) :
    (s.packSuper k).inflight =
      s.inflight := State.setAttr_inflight s k _
@[simp] theorem State.packSuper_colours (k : Nat) : (s.packSuper k).colours = s.colours := State.setAttr_colours s k _
@[simp] theorem State.packSuper_inbox (k : Nat) : (s.packSuper k).inbox = s.inbox := State.setAttr_inbox s k _
@[simp] theorem State.packSuper_reads (k : Nat) : (s.packSuper k).reads = s.reads := State.setAttr_reads s k _
@[simp] theorem State.packSuper_latencyLeft (k : Nat) :
    (s.packSuper k).latencyLeft =
      s.latencyLeft := State.setAttr_latencyLeft s k _
@[simp] theorem State.packSuper_draws (k : Nat) : (s.packSuper k).draws = s.draws := State.setAttr_draws s k _
@[simp] theorem State.packSuper_resets (k : Nat) : (s.packSuper k).resets = s.resets := State.setAttr_resets s k _

/-! ### The start of RUN's phase 2 (R173) -/

@[simp] theorem State.startRun_mem : s.startRun.mem = Memory.forget s.mem ptBase 4096 := rfl
@[simp] theorem State.startRun_bp : s.startRun.bp = s.bp := rfl
@[simp] theorem State.startRun_regTile : s.startRun.regTile = [] := rfl
@[simp] theorem State.startRun_engine : s.startRun.engine = s.engine := rfl
@[simp] theorem State.startRun_dropped : s.startRun.dropped = s.dropped := rfl
@[simp] theorem State.startRun_err : s.startRun.err = s.err := rfl
@[simp] theorem State.startRun_errCmd : s.startRun.errCmd = s.errCmd := rfl
@[simp] theorem State.startRun_gridDim : s.startRun.gridDim = s.gridDim := rfl
@[simp] theorem State.startRun_result : s.startRun.result = s.result := rfl
@[simp] theorem State.startRun_bgLen : s.startRun.bgLen = s.bgLen := rfl
@[simp] theorem State.startRun_bgElem : s.startRun.bgElem = s.bgElem := rfl
@[simp] theorem State.startRun_inflight : s.startRun.inflight = s.inflight := rfl
@[simp] theorem State.startRun_colours : s.startRun.colours = s.colours := rfl
@[simp] theorem State.startRun_inbox : s.startRun.inbox = s.inbox := rfl
@[simp] theorem State.startRun_reads : s.startRun.reads = s.reads := rfl
@[simp] theorem State.startRun_latencyLeft : s.startRun.latencyLeft = s.latencyLeft := rfl
@[simp] theorem State.startRun_draws : s.startRun.draws = s.draws := rfl
@[simp] theorem State.startRun_resets : s.startRun.resets = s.resets := rfl

end Sys2Proof.Machine
end

