-- ==== Sys2Proof/Laws/Checks.lean ====
section
/-! SUPPORT. Tiles, and the checks that come before every effect: when each of them passes, and what it raises when it
does not. -/

namespace Sys2Proof.Machine

variable (s s' : State)

/-! ### Tiles -/

theorem tilePixel_lt {t p : Nat} (ht : t < 256) (hp : p < 64) : tilePixel t p < 16384 := by
  unfold tilePixel; omega

@[simp] theorem Tile.pixel_ofFn (f : Fin 64 → Word) {p : Nat} (hp : p < 64) :
    Tile.pixel (Vector.ofFn f) p = f ⟨p, hp⟩ := by
  unfold Tile.pixel
  simp [Vector.getD, hp]

theorem Tile.pixel_eq_getElem (T : Tile) {p : Nat} (hp : p < 64) : T.pixel p = T[p] := by
  unfold Tile.pixel
  simp [Vector.getD, hp]

/-- R104: pixel `p` of tile `t` is the PIXMEM word of the extraction formula. -/
theorem State.tile_pixel (t : Nat) {p : Nat} (hp : p < 64) :
    (s.tile t).pixel p = s.pixmem (tilePixel t p) := by
  unfold State.tile
  rw [Tile.pixel_ofFn _ hp]

/-- R40: "Two tiles are equal iff their 64 pixel sequences are equal in order." -/
theorem Tile.ext_pixel {T U : Tile} : T = U ↔ ∀ p < 64, T.pixel p = U.pixel p := by
  constructor
  · rintro rfl p _; rfl
  · intro h
    apply Vector.ext
    intro p hp
    rw [← Tile.pixel_eq_getElem T hp, ← Tile.pixel_eq_getElem U hp, h p hp]

/-- What the engine sees of PIXMEM is the same in both states. -/
def State.SamePixels : Prop :=
  (∀ a < 0x10000, Memory.read s.mem a = Memory.read s'.mem a) ∧ s.resets = s'.resets

variable {s s'}

theorem State.SamePixels.word? (h : s.SamePixels s') {i : Nat} (hi : i < 16384) :
    Memory.word? s.mem (4 * i) = Memory.word? s'.mem (4 * i) :=
  Memory.word?_congr fun k hk => h.1 _ (by omega)

theorem State.SamePixels.written (h : s.SamePixels s') {i : Nat} (hi : i < 16384) : s.written i = s'.written i := by
  unfold State.written; rw [h.word? hi]

theorem State.SamePixels.pixmem (h : s.SamePixels s') {i : Nat} (hi : i < 16384) : s.pixmem i = s'.pixmem i := by
  unfold State.pixmem; rw [h.word? hi, h.2]

theorem State.SamePixels.tile (h : s.SamePixels s') {t : Nat} (ht : t < 256) : s.tile t = s'.tile t := by
  rw [Tile.ext_pixel]
  intro p hp
  rw [State.tile_pixel _ _ hp, State.tile_pixel _ _ hp, h.pixmem (tilePixel_lt ht hp)]

theorem State.SamePixels.refl (s : State) : s.SamePixels s := ⟨fun _ _ => rfl, rfl⟩

theorem State.SamePixels.trans {u : State} (h : s.SamePixels s') (h' : s'.SamePixels u) : s.SamePixels u :=
  ⟨fun a ha => (h.1 a ha).trans (h'.1 a ha), h.2.trans h'.2⟩

theorem State.SamePixels.symm (h : s.SamePixels s') : s'.SamePixels s :=
  ⟨fun a ha => (h.1 a ha).symm, h.2.symm⟩

/-! ### Validity -/

theorem firstBad_eq_none {c : ColourTable} {T : Tile} :
    firstBad c T = none ↔ ∀ p < 64, c.known (T.pixel p) = true := by
  unfold firstBad
  rw [List.findIdx?_eq_none_iff]
  constructor
  · intro h p hp
    rw [Tile.pixel_eq_getElem T hp]
    simpa using h T[p] (by simp)
  · intro h v hv
    obtain ⟨p, hp, rfl⟩ := List.getElem_of_mem hv
    have hp' : p < 64 := by simpa using hp
    have := h p hp'
    rw [Tile.pixel_eq_getElem T hp'] at this
    simpa using this

/-- `first_bad` (R105) is the least pixel index that is no known colour. -/
theorem firstBad_eq_some {c : ColourTable} {T : Tile} {p : Nat} :
    firstBad c T = some p ↔
      p < 64 ∧ c.known (T.pixel p) = false ∧ ∀ q < p, c.known (T.pixel q) = true := by
  unfold firstBad
  rw [List.findIdx?_eq_some_iff_getElem]
  constructor
  · rintro ⟨hp, hb, hq⟩
    have hp' : p < 64 := by simpa using hp
    refine ⟨hp', ?_, fun q hq' => ?_⟩
    · rw [Tile.pixel_eq_getElem T hp']; simpa using hb
    · rw [Tile.pixel_eq_getElem T (by omega)]; simpa using hq q hq'
  · rintro ⟨hp, hb, hq⟩
    refine ⟨by simpa using hp, ?_, fun q hq' => ?_⟩
    · rw [Tile.pixel_eq_getElem T hp] at hb; simpa using hb
    · have := hq q hq'
      rw [Tile.pixel_eq_getElem T (by omega)] at this; simpa using this

/-- `valid(t)` (R105). -/
theorem validTile_tile (s : State) (t : Nat) : validTile s.colours (s.tile t) = true ↔ s.TileValid t := by
  unfold validTile State.TileValid State.IsColour
  rw [Option.isNone_iff_eq_none, firstBad_eq_none]
  refine forall_congr' fun p => forall_congr' fun hp => ?_
  rw [s.tile_pixel t hp, ColourTable.known_iff]

/-! ### The checks -/

/-- GRID_DIM passes the check in exactly one value (R233). -/
theorem State.dimOk_iff (s : State) : s.dimOk = true ↔ s.dimensionsOk := by
  unfold State.dimOk State.gridW State.gridH State.dimensionsOk
  simp only [Bool.and_eq_true, decide_eq_true_eq]
  constructor
  · rintro ⟨hw, hh⟩
    have hw : s.gridDim.toNat % 65536 = 128 := by
      simpa [BitVec.extractLsb'_toNat] using congrArg BitVec.toNat hw
    have hh : s.gridDim.toNat / 65536 % 65536 = 128 := by
      simpa [BitVec.extractLsb'_toNat, Nat.shiftRight_eq_div_pow] using congrArg BitVec.toNat hh
    have := s.gridDim.isLt
    exact BitVec.eq_of_toNat_eq (show s.gridDim.toNat = 8388736 by omega)
  · intro h; rw [h]; decide

theorem State.requireDim_eq_none (s : State) : s.requireDim = none ↔ s.dimensionsOk := by
  rw [← s.dimOk_iff]
  unfold State.requireDim
  cases s.dimOk
  · exact iff_of_false (by simp) (by decide)
  · exact iff_of_true rfl rfl

/-- `require_dim()` (R103) raises DIMENSION, whose information fields are 0 (R201). -/
theorem State.requireDim_eq_some (s : State) {x : Stop} :
    s.requireDim = some x ↔ ¬ s.dimensionsOk ∧ x = .error ⟨.dimension, 0, 0, 0⟩ := by
  rw [← s.dimOk_iff]
  unfold State.requireDim
  cases s.dimOk
  · exact ⟨fun h => ⟨by decide, (Option.some.inj h).symm⟩, fun h => congrArg some h.2.symm⟩
  · exact ⟨fun h => absurd h (by simp), fun h => absurd rfl h.1⟩

theorem State.requireWritten_eq_none (s : State) (t : Nat) : s.requireWritten t = none ↔ s.TileWritten t := by
  unfold State.requireWritten State.TileWritten
  split
  · next i h =>
    obtain ⟨hb, hm⟩ := And.intro (List.find?_some h) (List.mem_of_find?_eq_some h)
    simp only [List.mem_map, List.mem_range] at hm
    obtain ⟨p, hp, rfl⟩ := hm
    simp only [reduceCtorEq, false_iff]
    intro hw
    simp [hw p hp] at hb
  · next h =>
    simp only [true_iff]
    intro p hp
    have := List.find?_eq_none.mp h (tilePixel t p) (List.mem_map_of_mem (List.mem_range.mpr hp))
    simpa using this

/-- Reading a tile faults with one of its words that was not written (R45). -/
theorem State.requireWritten_eq_some (s : State) {t : Nat} {x : Stop} (h : s.requireWritten t = some x) :
    ∃ p < 64, s.written (tilePixel t p) = false ∧ x = .fault (.unwrittenInput (tilePixel t p)) := by
  unfold State.requireWritten at h
  split at h
  · next i hi =>
    obtain ⟨hb, hm⟩ := And.intro (List.find?_some hi) (List.mem_of_find?_eq_some hi)
    simp only [List.mem_map, List.mem_range] at hm
    obtain ⟨p, hp, rfl⟩ := hm
    exact ⟨p, hp, by simpa using hb, (Option.some.inj h).symm⟩
  · exact absurd h (by simp)

theorem State.requireValid_eq_none (s : State) (t : Nat) :
    s.requireValid t = none ↔ s.TileWritten t ∧ s.TileValid t := by
  unfold State.requireValid
  rw [Option.or_eq_none_iff, s.requireWritten_eq_none, ← validTile_tile]
  unfold validTile
  cases firstBad s.colours (s.tile t) <;> simp

/-- `require_valid(t)` (R105): the fault of R45, or UNKNOWN_COLOR with the tile and its first bad pixel (R202). -/
theorem State.requireValid_eq_some (s : State) {t : Nat} {x : Stop} (h : s.requireValid t = some x) :
    (∃ p < 64, s.written (tilePixel t p) = false ∧ x = .fault (.unwrittenInput (tilePixel t p))) ∨
    (s.TileWritten t ∧ ∃ p < 64, ¬ s.IsColour (s.pixmem (tilePixel t p)) ∧
      (∀ q < p, s.IsColour (s.pixmem (tilePixel t q))) ∧
      x = .error ⟨.unknownColor, 0, BitVec.ofNat 8 t, BitVec.ofNat 6 p⟩) := by
  unfold State.requireValid at h
  rw [Option.or_eq_some_iff] at h
  rcases h with h | ⟨hw, h⟩
  · exact .inl (s.requireWritten_eq_some h)
  · right
    refine ⟨(s.requireWritten_eq_none t).mp hw, ?_⟩
    cases hb : firstBad s.colours (s.tile t) with
    | none => simp [hb] at h
    | some p =>
      simp only [hb, Option.some.injEq] at h
      obtain ⟨hp, hk, hq⟩ := firstBad_eq_some.mp hb
      refine ⟨p, hp, ?_, fun q hqp => ?_, h.symm⟩
      · rw [s.tile_pixel t hp] at hk
        intro hc
        rw [ColourTable.known_iff _ |>.mpr hc] at hk
        exact absurd hk (by decide)
      · have := hq q hqp
        rw [s.tile_pixel t (by omega)] at this
        exact (ColourTable.known_iff _).mp this

theorem State.requireAllValid_eq_none (s : State) (ts : List Nat) :
    s.requireAllValid ts = none ↔ ∀ t ∈ ts, s.TileWritten t ∧ s.TileValid t := by
  unfold State.requireAllValid
  rw [List.findSome?_eq_none_iff]
  exact forall_congr' fun t => forall_congr' fun _ => s.requireValid_eq_none t

/-- The first tile in scan order that does not pass is the one reported (R208). -/
theorem State.requireAllValid_eq_some (s : State) {ts : List Nat} {x : Stop} :
    s.requireAllValid ts = some x ↔
      ∃ before t after, ts = before ++ t :: after ∧ s.requireValid t = some x ∧
        ∀ u ∈ before, s.TileWritten u ∧ s.TileValid u := by
  unfold State.requireAllValid
  rw [List.findSome?_eq_some_iff]
  simp only [s.requireValid_eq_none]

theorem requireBelow_eq_none {arg : BitVec 8} {bound : Nat} : requireBelow arg bound = none ↔ arg.toNat < bound := by
  unfold requireBelow
  split <;> simp_all

theorem requireBelow_eq_some {arg : BitVec 8} {bound : Nat} {x : Stop} :
    requireBelow arg bound = some x ↔ bound ≤ arg.toNat ∧ x = .error ⟨.illegalOperand, 0, arg, 0⟩ := by
  unfold requireBelow
  split
  · simp; omega
  · simp only [Option.some.injEq]
    constructor
    · intro h; exact ⟨by omega, h.symm⟩
    · intro h; exact h.2.symm

/-! ### The end of a command -/

/-- What a guarded command can answer: its effect, error entry, or the model's fault. -/
theorem guarded_cases (c : Option Stop) (s e : State) :
    (c = none ∧ guarded c s e = .next e) ∨
    (∃ r, c = some (.error r) ∧ guarded c s e = .next (s.enterError r)) ∨
    (∃ f, c = some (.fault f) ∧ guarded c s e = .fault f) := by
  rcases c with _ | r | f
  · exact .inl ⟨rfl, rfl⟩
  · exact .inr (.inl ⟨r, rfl, rfl⟩)
  · exact .inr (.inr ⟨f, rfl, rfl⟩)

@[simp] theorem guarded_none (s e : State) : guarded none s e = .next e := rfl

@[simp] theorem guarded_error (r : ErrRecord) (s e : State) :
    guarded (some (.error r)) s e = .next (s.enterError r) := rfl

@[simp] theorem guarded_fault (f : Fault) (s e : State) : guarded (some (.fault f)) s e = .fault f := rfl

end Sys2Proof.Machine
end

