-- ==== Sys2Proof/Laws/Commands.lean ====
section
/-! SUPPORT. One lemma per shared operation and command: what a command checks, what it does, and what it leaves alone.
Every command is `guarded` by its checks (`exec_eq_guarded`), so a claim about all commands is a claim about
`checkOf` and `effectOf`. -/

namespace Sys2Proof.Machine

/-! ### Every command is its checks, then its effect -/

/-- The checks of a command, in the order of R208. -/
def checkOf : Instr → State → Option Stop
  | .nop, _        => none
  | .clear, _      => none
  | .run, s        => s.requireDim.or (s.requireAllValid (List.range 256))
  | .chkdim, s     => s.requireDim
  | .validate t, s => s.requireDim.or (s.requireWritten t.toNat)
  | .register t, s => (s.requireDim.or (s.requireValid t.toNat)).or (s.requireRoom t.toNat)
  | .encode id, s  => requireBelow id s.regCount
  | .classify b, s => ((requireBelow b 64).or s.requireDim).or (s.requireAllValid (blockTiles b.toNat))
  | .packattr k, _ => requireBelow k 16
  | .pack8, s      => requireBits s.bgLen s.bgElemAt

/-- The effect of a command that passes its checks. -/
def effectOf : Instr → State → State
  | .nop, s        => s
  | .clear, s      => s.clearEngine
  | .run, s        => s.pipeline.finish (BitVec.ofNat 9 s.pipeline.regCount)
  | .chkdim, s     => s.finish 0
  | .validate t, s => s.finish (boolResult (validTile s.colours (s.tile t.toNat)))
  | .register t, s =>
    (s.registerTile t.toNat).finish (registerResult (s.idOf t.toNat).1 (s.idOf t.toNat).2)
  | .encode id, s  => (s.encodeTile id.toNat).finish (byteResult id)
  | .classify b, s =>
    (s.classifyBlock b.toNat).finish (boolResult ((s.classifyBlock b.toNat).blockPalette b.toNat))
  | .packattr k, s => (s.packSuper k.toNat).finish (byteResult ((s.packSuper k.toNat).attr k.toNat))
  | .pack8, s      => s.finish (byteResult (packByte s.bgElemAt))

theorem exec_eq_guarded (i : Instr) (s : State) : exec i s = guarded (checkOf i s) s (effectOf i s) := by
  cases i <;> rfl

/-- A command answers: its effect when its checks pass, error entry, or the model's fault. -/
theorem exec_cases (i : Instr) (s : State) :
    (checkOf i s = none ∧ exec i s = .next (effectOf i s)) ∨
    (∃ r, checkOf i s = some (.error r) ∧ exec i s = .next (s.enterError r)) ∨
    (∃ f, checkOf i s = some (.fault f) ∧ exec i s = .fault f) := by
  rw [exec_eq_guarded]
  exact guarded_cases _ _ _

/-- A next state of a command is its effect or error entry. -/
theorem exec_next {i : Instr} {s t : State} (h : exec i s = .next t) :
    (checkOf i s = none ∧ t = effectOf i s) ∨ (∃ r, checkOf i s = some (.error r) ∧ t = s.enterError r) := by
  rcases exec_cases i s with ⟨hc, he⟩ | ⟨r, hc, he⟩ | ⟨f, hc, he⟩ <;> rw [he] at h
  · exact .inl ⟨hc, (Host.Outcome.next.inj h).symm⟩
  · exact .inr ⟨r, hc, (Host.Outcome.next.inj h).symm⟩
  · cases h

/-- An effect leaves the engine in the state its rule says: NOP where it was, CLEAR IDLE, all others DONE. -/
theorem effectOf_engine (i : Instr) (s : State) :
    (effectOf i s).engine = (match i with | .nop => s.engine | .clear => .idle | _ => .done) := by
  cases i <;> simp [effectOf]

/-! ### Bits -/

/-- `BP[b] <- v` writes one bit. -/
theorem getLsbD_setBit (x : BitVec 64) (b : Nat) (v : Bool) (j : Nat) :
    (setBit x b v).getLsbD j = if j = b ∧ b < 64 then v else x.getLsbD j := by
  unfold setBit
  by_cases hj : j < 64
  · cases v
    · by_cases hb : j = b
      · subst hb; simp [hj]
      · by_cases hlt : j < b
        · simp [hj, hb, hlt]
        · simp [hj, hb, hlt, show j - b ≠ 0 by omega]
    · by_cases hb : j = b
      · subst hb; simp [hj]
      · by_cases hlt : j < b
        · simp [hb, hlt]
        · simp [hj, hb, hlt, show j - b ≠ 0 by omega]
  · have : ¬ (j = b ∧ b < 64) := by omega
    rw [if_neg this, BitVec.getLsbD_of_ge _ _ (by omega), BitVec.getLsbD_of_ge _ _ (by omega)]

theorem State.blockPalette_setBlockPalette (s : State) (b : Nat) (v : Bool) (j : Nat) :
    (s.setBlockPalette b v).blockPalette j = if j = b ∧ b < 64 then v else s.blockPalette j := by
  unfold State.blockPalette
  rw [State.setBlockPalette_bp, getLsbD_setBit]

theorem getLsbD_of_bit {x : Byte} (h : x = 0 ∨ x = 1) (m : Nat) :
    x.getLsbD m = (decide (m = 0) && decide (x = 1)) := by
  rcases h with rfl | rfl
  · simp
  · cases m <;> simp

/-- The packed byte (R130): element `i` in bit `7 - i`. -/
theorem getLsbD_packByte (e : Nat → Byte) (h : ∀ i < 8, e i = 0 ∨ e i = 1) {i : Nat} (hi : i < 8) :
    (packByte e).getLsbD (7 - i) = decide (e i = 1) := by
  have hb (j : Nat) (hj : j < 8) (m : Nat) (hm : m < 8) : (e j)[m] = (decide (m = 0) && decide (e j = 1)) := by
    rw [← getLsbD_of_bit (h j hj) m, BitVec.getLsbD_eq_getElem hm]
  have : i = 0 ∨ i = 1 ∨ i = 2 ∨ i = 3 ∨ i = 4 ∨ i = 5 ∨ i = 6 ∨ i = 7 := by omega
  rcases this with h | h | h | h | h | h | h | h <;> subst h <;>
    simp [packByte, hb]

theorem lowBit_bit (c : ColourTable) (v : Word) : lowBit c v = 0 ∨ lowBit c v = 1 := by
  unfold lowBit; generalize c.slot v = x; revert x; decide

theorem highBit_bit (c : ColourTable) (v : Word) : highBit c v = 0 ∨ highBit c v = 1 := by
  unfold highBit; generalize c.slot v = x; revert x; decide

theorem lowBit_eq_one (c : ColourTable) (v : Word) : decide (lowBit c v = 1) = (c.slot v).getLsbD 0 := by
  unfold lowBit; generalize c.slot v = x; revert x; decide

theorem highBit_eq_one (c : ColourTable) (v : Word) : decide (highBit c v = 1) = (c.slot v).getLsbD 1 := by
  unfold highBit; generalize c.slot v = x; revert x; decide

/-- R132: byte `r` of the low plane holds bit 0 of the slot of pixel `8r + c` in bit `7 - c`. -/
theorem getLsbD_patternByte_low (ct : ColourTable) (T : Tile) {r c : Nat} (hr : r < 8) (hc : c < 8) :
    (patternByte ct T r).getLsbD (7 - c) = (ct.slot (T.pixel (8 * r + c))).getLsbD 0 := by
  unfold patternByte
  rw [if_pos hr, getLsbD_packByte _ (fun _ _ => lowBit_bit _ _) hc, lowBit_eq_one]

/-- R132: byte `8 + r`, of the high plane, holds bit 1 of that slot. -/
theorem getLsbD_patternByte_high (ct : ColourTable) (T : Tile) {r c : Nat} (hc : c < 8) :
    (patternByte ct T (8 + r)).getLsbD (7 - c) = (ct.slot (T.pixel (8 * r + c))).getLsbD 1 := by
  unfold patternByte
  rw [if_neg (by omega), getLsbD_packByte _ (fun _ _ => highBit_bit _ _) hc, highBit_eq_one,
    Nat.add_sub_cancel_left]

/-- The attribute byte (R161) as a number: each quadrant field holds 0 or 1. -/
theorem attrByte_toNat (q0 q1 q2 q3 : Bool) :
    (attrByte q0 q1 q2 q3).toNat = q0.toNat + 4 * q1.toNat + 16 * q2.toNat + 64 * q3.toNat := by
  revert q0 q1 q2 q3; decide

/-- R161: bits 1, 3, 5 and 7 of an attribute byte are 0. -/
theorem attrByte_mask (q0 q1 q2 q3 : Bool) : attrByte q0 q1 q2 q3 &&& 0xAA = 0 := by
  revert q0 q1 q2 q3; decide

/-! ### The groups (R151) -/

/-- R152: the tiles of a block. -/
theorem blockTiles_eq (b : Nat) :
    blockTiles b =
      [32 * (b / 8) + 2 * (b % 8), 32 * (b / 8) + 2 * (b % 8) + 1, 32 * (b / 8) + 2 * (b % 8) + 16,
        32 * (b / 8) + 2 * (b % 8) + 17] := by
  unfold blockTiles groupCells
  simp only [List.cons.injEq, and_true]
  omega

/-- R160: the blocks of a super-block. -/
theorem superBlocks_eq (k : Nat) :
    superBlocks k =
      [16 * (k / 4) + 2 * (k % 4), 16 * (k / 4) + 2 * (k % 4) + 1, 16 * (k / 4) + 2 * (k % 4) + 8,
        16 * (k / 4) + 2 * (k % 4) + 9] := by
  unfold superBlocks groupCells
  simp only [List.cons.injEq, and_true]
  omega

theorem blockTiles_lt {b t : Nat} (hb : b < 64) (ht : t ∈ blockTiles b) : t < 256 := by
  rw [blockTiles_eq] at ht
  simp only [List.mem_cons, List.not_mem_nil, or_false] at ht
  omega

theorem superBlocks_lt {k b : Nat} (hk : k < 16) (hb : b ∈ superBlocks k) : b < 64 := by
  rw [superBlocks_eq] at hb
  simp only [List.mem_cons, List.not_mem_nil, or_false] at hb
  omega

/-! ### The registry (R120, R121) -/

/-- `find(T)` (R121): the first place where the tile stands. -/
theorem State.findTile_eq_some {s : State} {T : Tile} {id : Nat} :
    s.findTile T = some id ↔ s.regTile[id]? = some T ∧ ∀ j < id, s.regTile[j]? ≠ some T := by
  unfold State.findTile
  rw [List.findIdx?_eq_some_iff_getElem]
  constructor
  · rintro ⟨h, he, hj⟩
    refine ⟨by rw [List.getElem?_eq_getElem h]; simpa using he, fun j hji => ?_⟩
    rw [List.getElem?_eq_getElem (by omega)]
    simpa using hj j hji
  · rintro ⟨he, hj⟩
    obtain ⟨h, he⟩ := List.getElem?_eq_some_iff.mp he
    refine ⟨h, by simpa using he, fun j hji => ?_⟩
    have := hj j hji
    rw [List.getElem?_eq_getElem (by omega)] at this
    simpa using this

theorem State.findTile_eq_none {s : State} {T : Tile} : s.findTile T = none ↔ T ∉ s.regTile := by
  unfold State.findTile
  rw [List.findIdx?_eq_none_iff]
  constructor
  · intro h hT; simpa using h T hT
  · intro h U hU
    simp only [decide_eq_false_iff_not]
    rintro rfl
    exact h hU

theorem State.idOf_found {s : State} {t id : Nat} (h : s.findTile (s.tile t) = some id) : s.idOf t = (false, id) := by
  unfold State.idOf; rw [h]

theorem State.idOf_new {s : State} {t : Nat} (h : s.tile t ∉ s.regTile) : s.idOf t = (true, s.regCount) := by
  unfold State.idOf; rw [State.findTile_eq_none.mpr h]

/-- The two cases of REGISTER (R120). -/
theorem State.idOf_cases (s : State) (t : Nat) :
    (∃ id, s.findTile (s.tile t) = some id ∧ s.idOf t = (false, id)) ∨
    (s.tile t ∉ s.regTile ∧ s.idOf t = (true, s.regCount)) := by
  cases h : s.findTile (s.tile t) with
  | some id => exact .inl ⟨id, rfl, State.idOf_found h⟩
  | none => exact .inr ⟨State.findTile_eq_none.mp h, State.idOf_new (State.findTile_eq_none.mp h)⟩

/-- After registering a tile, its ID names it in the registry. -/
theorem State.registerTile_getElem? (s : State) (t : Nat) :
    (s.registerTile t).regTile[(s.idOf t).2]? = some (s.tile t) := by
  rw [State.registerTile_regTile]
  rcases s.idOf_cases t with ⟨id, hf, hi⟩ | ⟨hn, hi⟩ <;> rw [hi]
  · simpa using (State.findTile_eq_some.mp hf).1
  · simp [State.regCount]

/-- Registering a tile only appends to the registry. -/
theorem State.registerTile_append (s : State) (t : Nat) :
    ∃ new, (s.registerTile t).regTile = s.regTile ++ new ∧ new.length ≤ 1 ∧ ∀ T ∈ new, T = s.tile t ∧ T ∉ s.regTile := by
  rw [State.registerTile_regTile]
  rcases s.idOf_cases t with ⟨id, hf, hi⟩ | ⟨hn, hi⟩ <;> rw [hi]
  · exact ⟨[], by simp⟩
  · exact ⟨[s.tile t], by simp [hn]⟩

theorem State.registerTile_nodup (s : State) (t : Nat) (h : s.regTile.Nodup) : (s.registerTile t).regTile.Nodup := by
  rw [State.registerTile_regTile]
  rcases s.idOf_cases t with ⟨id, hf, hi⟩ | ⟨hn, hi⟩ <;> rw [hi]
  · simpa using h
  · simp only [if_true]
    rw [List.nodup_append]
    refine ⟨h, by simp, ?_⟩
    intro a ha b hb
    simp only [List.mem_singleton] at hb
    subst hb
    rintro rfl
    exact hn ha

/-! ### What each shared operation writes -/

/-- `classify` (R153): whether a tile of the list holds a WHITE or PINK pixel. -/
theorem State.classifyTiles_iff (s : State) (ts : List Nat) :
    s.classifyTiles ts = true ↔ ∃ t ∈ ts, ∃ p < 64,
      s.pixmem (tilePixel t p) = s.colours.white ∨ s.pixmem (tilePixel t p) = s.colours.pink := by
  unfold State.classifyTiles
  rw [List.any_eq_true]
  refine exists_congr fun t => and_congr_right fun _ => ?_
  rw [List.any_eq_true]
  constructor
  · rintro ⟨v, hv, hm⟩
    obtain ⟨p, hp, hpv⟩ := List.getElem_of_mem hv
    have hp' : p < 64 := by simpa using hp
    rw [Vector.getElem_toList, ← Tile.pixel_eq_getElem _ hp', s.tile_pixel t hp'] at hpv
    exact ⟨p, hp', hpv ▸ s.colours.marks_iff.mp hm⟩
  · rintro ⟨p, hp, hm⟩
    refine ⟨(s.tile t)[p], by simp, s.colours.marks_iff.mpr ?_⟩
    rw [← Tile.pixel_eq_getElem _ hp, s.tile_pixel t hp]
    exact hm

/-- `BP[b]` after its block is classified, and every other bit as before (R150). -/
theorem State.blockPalette_classifyBlock (s : State) (b j : Nat) :
    (s.classifyBlock b).blockPalette j =
      if j = b ∧ b < 64 then s.classifyTiles (blockTiles b) else s.blockPalette j := by
  unfold State.classifyBlock
  exact s.blockPalette_setBlockPalette b _ j

/-- `AT[k]` after its super-block is packed (R162). -/
theorem State.attr_packSuper (s : State) (k j : Nat) :
    (s.packSuper k).attr j = if j = k then s.attrOf k else s.attr j := by
  unfold State.attr
  rw [State.packSuper_mem, Memory.byte_write]
  simp only [Nat.add_left_cancel_iff]

/-- `NT[t]` after its tile is registered (R120). -/
theorem State.nt_registerTile (s : State) (t j : Nat) :
    (s.registerTile t).nt j = if j = t then BitVec.ofNat 8 (s.idOf t).2 else s.nt j := by
  unfold State.nt
  rw [State.registerTile_mem, Memory.byte_write]
  simp only [Nat.add_left_cancel_iff]

/-- PT after a registered tile is encoded (R133). -/
theorem State.pt_encodeTile (s : State) (id i : Nat) :
    (s.encodeTile id).pt i =
      if 16 * id ≤ i ∧ i < 16 * id + 16 then patternByte s.colours (s.regTileAt id) (i - 16 * id) else s.pt i := by
  unfold State.pt
  rw [State.encodeTile_mem, Memory.byte_writeRange]
  by_cases h : 16 * id ≤ i ∧ i < 16 * id + 16
  · rw [if_pos h, if_pos (by omega), show ptBase + i - (ptBase + 16 * id) = i - 16 * id by omega]
  · rw [if_neg h, if_neg (by omega)]

/-- The attribute byte of a super-block as a number (R161, R162). -/
theorem State.attrOf_toNat (s : State) (k : Nat) :
    (s.attrOf k).toNat = (s.blockPalette (16 * (k / 4) + 2 * (k % 4))).toNat +
      4 * (s.blockPalette (16 * (k / 4) + 2 * (k % 4) + 1)).toNat +
      16 * (s.blockPalette (16 * (k / 4) + 2 * (k % 4) + 8)).toNat +
      64 * (s.blockPalette (16 * (k / 4) + 2 * (k % 4) + 9)).toNat := by
  unfold State.attrOf
  rw [attrByte_toNat, superBlocks_eq]
  rfl
/-- RESULT and STATE are no part of the arrays. -/
@[simp] theorem State.nt_finish (s : State) (r : BitVec 9) (k : Nat) : (s.finish r).nt k = s.nt k := by
  unfold State.nt; rw [State.finish_mem]

@[simp] theorem State.pt_finish (s : State) (r : BitVec 9) (i : Nat) : (s.finish r).pt i = s.pt i := by
  unfold State.pt; rw [State.finish_mem]

@[simp] theorem State.attr_finish (s : State) (r : BitVec 9) (k : Nat) : (s.finish r).attr k = s.attr k := by
  unfold State.attr; rw [State.finish_mem]

@[simp] theorem State.blockPalette_finish (s : State) (r : BitVec 9) (b : Nat) :
    (s.finish r).blockPalette b = s.blockPalette b := by
  unfold State.blockPalette; rw [State.finish_bp]

@[simp] theorem State.regCount_finish (s : State) (r : BitVec 9) : (s.finish r).regCount = s.regCount := by
  unfold State.regCount; rw [State.finish_regTile]

/-! ### What the checks raise (R200, R45) -/

/-- The errors of a bit group (R203). -/
theorem requireBits_eq_some {n : BitVec 8} {e : Nat → Byte} {x : Stop} (h : requireBits n e = some x) :
    ∃ r, x = .error r ∧ r.code = .malformedBitGroup := by
  unfold requireBits at h
  split at h
  · exact ⟨_, (Option.some.inj h).symm, rfl⟩
  · split at h
    · exact ⟨_, (Option.some.inj h).symm, rfl⟩
    · cases h

/-- The error of a full registry (R205). -/
theorem State.requireRoom_eq_some {s : State} {t : Nat} {x : Stop} (h : s.requireRoom t = some x) :
    x = .error ⟨.registryFull, 0, BitVec.ofNat 8 t, 0⟩ := by
  unfold State.requireRoom at h; split at h
  · exact (Option.some.inj h).symm
  · cases h

/-- R200: the code a command's checks can raise. -/
theorem checkOf_error {i : Instr} {s : State} {r : ErrRecord} (h : checkOf i s = some (.error r)) :
    (r.code = .dimension ∧ (i = .chkdim ∨ i = .run ∨ ∃ a, i = .validate a ∨ i = .register a ∨ i = .classify a)) ∨
    (r.code = .unknownColor ∧ (i = .run ∨ ∃ a, i = .register a ∨ i = .classify a)) ∨
    (r.code = .malformedBitGroup ∧ i = .pack8) ∨
    (r.code = .illegalOperand ∧ ∃ a, i = .encode a ∨ i = .classify a ∨ i = .packattr a) ∨
    (r.code = .registryFull ∧ ∃ a, i = .register a) := by
  have dim {s : State} (h : s.requireDim = some (.error r)) : r.code = .dimension := by
    obtain ⟨-, h⟩ := s.requireDim_eq_some.mp h
    cases h; rfl
  have val {s : State} {t : Nat} (h : s.requireValid t = some (.error r)) : r.code = .unknownColor := by
    rcases s.requireValid_eq_some h with ⟨_, _, _, h⟩ | ⟨_, _, _, _, _, h⟩ <;> cases h
    rfl
  have vals {s : State} {ts : List Nat} (h : s.requireAllValid ts = some (.error r)) : r.code = .unknownColor := by
    obtain ⟨_, _, _, _, h, _⟩ := s.requireAllValid_eq_some.mp h
    exact val h
  have low {a : BitVec 8} {n : Nat} (h : requireBelow a n = some (.error r)) : r.code = .illegalOperand := by
    obtain ⟨-, h⟩ := requireBelow_eq_some.mp h
    cases h; rfl
  cases i with
  | nop => cases h
  | clear => cases h
  | run =>
    rcases Option.or_eq_some_iff.mp h with h | ⟨_, h⟩
    · exact .inl ⟨dim h, by simp⟩
    · exact .inr (.inl ⟨vals h, by simp⟩)
  | chkdim => exact .inl ⟨dim h, by simp⟩
  | validate t =>
    rcases Option.or_eq_some_iff.mp h with h | ⟨_, h⟩
    · exact .inl ⟨dim h, by simp⟩
    · obtain ⟨_, _, _, h⟩ := s.requireWritten_eq_some h
      cases h
  | register t =>
    rcases Option.or_eq_some_iff.mp h with h | ⟨_, h⟩
    · rcases Option.or_eq_some_iff.mp h with h | ⟨_, h⟩
      · exact .inl ⟨dim h, by simp⟩
      · exact .inr (.inl ⟨val h, by simp⟩)
    · cases State.requireRoom_eq_some h
      exact .inr (.inr (.inr (.inr ⟨rfl, by simp⟩)))
  | encode id => exact .inr (.inr (.inr (.inl ⟨low h, by simp⟩)))
  | classify b =>
    rcases Option.or_eq_some_iff.mp h with h | ⟨_, h⟩
    · rcases Option.or_eq_some_iff.mp h with h | ⟨_, h⟩
      · exact .inr (.inr (.inr (.inl ⟨low h, by simp⟩)))
      · exact .inl ⟨dim h, by simp⟩
    · exact .inr (.inl ⟨vals h, by simp⟩)
  | packattr k => exact .inr (.inr (.inr (.inl ⟨low h, by simp⟩)))
  | pack8 =>
    obtain ⟨_, hx, hc⟩ := requireBits_eq_some h
    cases hx
    exact .inr (.inr (.inl ⟨hc, rfl⟩))

/-- R45: the checks fault only on a PIXMEM word never written, of a grid that passed the dimension check. -/
theorem checkOf_fault {i : Instr} {s : State} {f : Fault} (h : checkOf i s = some (.fault f)) :
    s.dimensionsOk ∧ ∃ j < 16384, f = .unwrittenInput j ∧ s.written j = false := by
  have val {s : State} {t : Nat} (ht : t < 256) (h : s.requireValid t = some (.fault f)) :
      ∃ j < 16384, f = .unwrittenInput j ∧ s.written j = false := by
    rcases s.requireValid_eq_some h with ⟨p, hp, hw, h⟩ | ⟨_, _, _, _, _, h⟩ <;> cases h
    exact ⟨_, tilePixel_lt ht hp, rfl, hw⟩
  have vals {s : State} {ts : List Nat} (ht : ∀ t ∈ ts, t < 256) (h : s.requireAllValid ts = some (.fault f)) :
      ∃ j < 16384, f = .unwrittenInput j ∧ s.written j = false := by
    obtain ⟨_, t, _, he, h, _⟩ := s.requireAllValid_eq_some.mp h
    exact val (ht t (by simp [he])) h
  cases i with
  | nop => cases h
  | clear => cases h
  | run =>
    rcases Option.or_eq_some_iff.mp h with h | ⟨hd, h⟩
    · cases (s.requireDim_eq_some.mp h).2
    · exact ⟨s.requireDim_eq_none.mp hd, vals (by simp) h⟩
  | chkdim => cases (s.requireDim_eq_some.mp h).2
  | validate t =>
    rcases Option.or_eq_some_iff.mp h with h | ⟨hd, h⟩
    · cases (s.requireDim_eq_some.mp h).2
    · obtain ⟨p, hp, hw, h⟩ := s.requireWritten_eq_some h
      cases h
      exact ⟨s.requireDim_eq_none.mp hd, _, tilePixel_lt t.isLt hp, rfl, hw⟩
  | register t =>
    rcases Option.or_eq_some_iff.mp h with h | ⟨_, h⟩
    · rcases Option.or_eq_some_iff.mp h with h | ⟨hd, h⟩
      · cases (s.requireDim_eq_some.mp h).2
      · exact ⟨s.requireDim_eq_none.mp hd, val t.isLt h⟩
    · cases State.requireRoom_eq_some h
  | encode id => cases (requireBelow_eq_some.mp h).2
  | classify b =>
    rcases Option.or_eq_some_iff.mp h with h | ⟨hb, h⟩
    · rcases Option.or_eq_some_iff.mp h with h | ⟨_, h⟩
      · cases (requireBelow_eq_some.mp h).2
      · cases (s.requireDim_eq_some.mp h).2
    · obtain ⟨hb, hd⟩ := Option.or_eq_none_iff.mp hb
      exact ⟨s.requireDim_eq_none.mp hd, vals (fun t ht => blockTiles_lt (requireBelow_eq_none.mp hb) ht) h⟩
  | packattr k => cases (requireBelow_eq_some.mp h).2
  | pack8 =>
    obtain ⟨_, hx, _⟩ := requireBits_eq_some h
    cases hx

/-- R45 (log 3, log 4): a tile with an unwritten word stops with one of its unwritten words. -/
theorem State.requireValid_of_unwritten {s : State} {t : Nat} (h : ¬ s.TileWritten t) :
    ∃ p < 64, s.written (tilePixel t p) = false ∧
      s.requireValid t = some (.fault (.unwrittenInput (tilePixel t p))) := by
  cases hx : s.requireWritten t with
  | none => exact absurd ((s.requireWritten_eq_none t).mp hx) h
  | some x =>
    obtain ⟨p, hp, hw, rfl⟩ := s.requireWritten_eq_some hx
    exact ⟨p, hp, hw, by unfold State.requireValid; rw [hx]; rfl⟩

/-- UNKNOWN_COLOR names the first bad pixel of the tile (R105, R202). -/
theorem State.requireValid_of_firstBad {s : State} {t p} (hw : s.TileWritten t) (hb : s.FirstBad t p) :
   s.requireValid t = some (.error ⟨.unknownColor, 0, BitVec.ofNat 8 t, BitVec.ofNat 6 p⟩) := by
  cases hx : s.requireValid t with
  | none => exact absurd (((s.requireValid_eq_none t).mp hx).2 p hb.1) hb.2.1
  | some x =>
    rcases s.requireValid_eq_some hx with ⟨q, hq, hf, _⟩ | ⟨_, q, hq, hk, hl, rfl⟩
    · rw [hw q hq] at hf; cases hf
    · have : p = q := by
        rcases Nat.lt_trichotomy p q with h | h | h
        · exact absurd (hl p h) hb.2.1
        · exact h
        · exact absurd (hb.2.2 q h) hk
      rw [this]

/-- There is room for the tile: it is registered, or fewer than 256 tiles are (R205). -/
theorem State.requireRoom_eq_none {s : State} {t} : s.requireRoom t = none ↔ ¬ ((s.idOf t).1 = true ∧ 256 ≤ s.regCount) := by
  unfold State.requireRoom; split <;> simp_all

/-- No command is refused. -/
theorem exec_ne_refused (i : Instr) (s : State) (r : Refusal) : exec i s ≠ .refused r := by
  intro h
  rcases exec_cases i s with ⟨_, he⟩ | ⟨_, _, he⟩ | ⟨_, _, he⟩ <;> rw [he] at h <;> cases h

/-! ### What the shared operations leave alone -/

/-- Storing outside PIXMEM leaves what the engine sees of it. -/
theorem State.samePixels_write (s : State) {a : Nat} (b : Byte) (ha : 0x10000 ≤ a) :
    State.SamePixels { s with mem := Memory.write s.mem a b } s :=
  ⟨fun x hx => by simp only [Memory.read_write]; rw [if_neg (by omega)], rfl⟩

theorem State.registerTile_samePixels (s : State) (t : Nat) : (s.registerTile t).SamePixels s :=
  ⟨fun a ha => by simp only [State.registerTile_mem, Memory.read_write, ntBase]; rw [if_neg (by omega)], rfl⟩

theorem State.encodeTile_samePixels (s : State) (id : Nat) : (s.encodeTile id).SamePixels s :=
  ⟨fun a ha => by simp only [State.encodeTile_mem, Memory.read_writeRange, ptBase]; rw [if_neg (by omega)], rfl⟩

theorem State.classifyBlock_samePixels (s : State) (b : Nat) : (s.classifyBlock b).SamePixels s :=
  ⟨fun a _ => by rw [State.classifyBlock_mem], by rw [State.classifyBlock_resets]⟩

theorem State.packSuper_samePixels (s : State) (k : Nat) : (s.packSuper k).SamePixels s :=
  ⟨fun a ha => by simp only [State.packSuper_mem, Memory.read_write, atBase]; rw [if_neg (by omega)],
    by rw [State.packSuper_resets]⟩

theorem State.startRun_samePixels (s : State) : s.startRun.SamePixels s :=
  ⟨fun a ha => by simp only [State.startRun_mem, Memory.read_forget, ptBase]; rw [if_neg (by omega)], rfl⟩

/-! ### Folds -/

/-- What every step of a fold keeps, the fold keeps. -/
theorem foldl_keeps {α : Type} {P : State → Prop} {f : State → α → State} (h : ∀ s a, P s → P (f s a)) (l : List α)
    (s : State) (hs : P s) : P (l.foldl f s) := by
  induction l generalizing s with
  | nil => exact hs
  | cons a l ih => exact ih _ (h s a hs)

/-- A fold over an initial segment of the numbers, one step more. -/
theorem foldl_range_succ {β : Type} (f : β → Nat → β) (s : β) (n : Nat) :
    (List.range (n + 1)).foldl f s = f ((List.range n).foldl f s) n := by
  rw [List.range_succ, List.foldl_append]
  rfl

/-- Induction over a fold on an initial segment of the numbers. -/
theorem foldl_range_induction {P : Nat → State → Prop} {f : State → Nat → State} {s : State} (n : Nat) (h0 : P 0 s)
    (hs : ∀ k s, k < n → P k s → P (k + 1) (f s k)) : P n ((List.range n).foldl f s) := by
  induction n with
  | zero => exact h0
  | succ n ih =>
    rw [foldl_range_succ]
    exact hs n _ (by omega) (ih fun k s hk => hs k s (by omega))

end Sys2Proof.Machine
end

