-- ==== Sys2Proof/Laws/PerInstr.lean ====
section
/-! SUPPORT. A family of statements made per command: the word of a command has zero in both reserved fields (R70). -/

namespace Sys2Proof.Laws.ReservedZero

/-- RSV0 and RSV1 of the command's word are 0 (R70, R74). -/
def Statement (i : Instr) : Prop := rsv0Field (encode i) = 0 ∧ rsv1Field (encode i) = 0

/-- The word of an operation and an operand has zero reserved fields. -/
theorem commandWord_reserved (op : BitVec 4) (arg : BitVec 8) :
    rsv0Field (commandWord op arg) = 0 ∧ rsv1Field (commandWord op arg) = 0 := by
  unfold rsv0Field rsv1Field commandWord
  constructor <;> apply BitVec.eq_of_getLsbD_eq <;> intro i hi <;>
    simp only [BitVec.getLsbD_extractLsb', BitVec.getLsbD_or, BitVec.getLsbD_setWidth, BitVec.getLsbD_shiftLeft]
  · rw [BitVec.getLsbD_of_ge op _ (by omega), show decide (4 + i < 8) = true from decide_eq_true (by omega)]
    simp
  · rw [BitVec.getLsbD_of_ge op _ (by omega), BitVec.getLsbD_of_ge arg _ (by omega)]
    simp

theorem nop : Statement .nop := commandWord_reserved _ _
theorem run : Statement .run := commandWord_reserved _ _
theorem clear : Statement .clear := commandWord_reserved _ _
theorem chkdim : Statement .chkdim := commandWord_reserved _ _
theorem validate (t : BitVec 8) : Statement (.validate t) := commandWord_reserved _ _
theorem register (t : BitVec 8) : Statement (.register t) := commandWord_reserved _ _
theorem encode (id : BitVec 8) : Statement (.encode id) := commandWord_reserved _ _
theorem classify (b : BitVec 8) : Statement (.classify b) := commandWord_reserved _ _
theorem packattr (k : BitVec 8) : Statement (.packattr k) := commandWord_reserved _ _
theorem pack8 : Statement .pack8 := commandWord_reserved _ _

end Sys2Proof.Laws.ReservedZero
end

