-- ==== Sys2Proof/Laws/Pipeline.lean ====
section
/-! SUPPORT. RUN's pipeline (R173): what each phase does and what it leaves alone. -/

namespace Sys2Proof.Machine

/-! ### What registering tiles (R173 phase 2) leaves alone -/

theorem foldl_registerTile_field {α : Type} (f : State → α) (h : ∀ s k, f (State.registerTile s k) = f s) (l : List Nat)
    (s : State) : f (l.foldl State.registerTile s) = f s :=
  foldl_keeps (P := fun t => f t = f s) (fun t k ht => (h t k).trans ht) l s rfl

@[simp] theorem State.registerAll_bp (s : State) : s.registerAll.bp = s.bp :=
  foldl_registerTile_field State.bp State.registerTile_bp _ s
@[simp] theorem State.registerAll_engine (s : State) : s.registerAll.engine = s.engine :=
  foldl_registerTile_field State.engine State.registerTile_engine _ s
@[simp] theorem State.registerAll_dropped (s : State) : s.registerAll.dropped = s.dropped :=
  foldl_registerTile_field State.dropped State.registerTile_dropped _ s
@[simp] theorem State.registerAll_err (s : State) : s.registerAll.err = s.err :=
  foldl_registerTile_field State.err State.registerTile_err _ s
@[simp] theorem State.registerAll_errCmd (s : State) : s.registerAll.errCmd = s.errCmd :=
  foldl_registerTile_field State.errCmd State.registerTile_errCmd _ s
@[simp] theorem State.registerAll_gridDim (s : State) : s.registerAll.gridDim = s.gridDim :=
  foldl_registerTile_field State.gridDim State.registerTile_gridDim _ s
@[simp] theorem State.registerAll_result (s : State) : s.registerAll.result = s.result :=
  foldl_registerTile_field State.result State.registerTile_result _ s
@[simp] theorem State.registerAll_bgLen (s : State) : s.registerAll.bgLen = s.bgLen :=
  foldl_registerTile_field State.bgLen State.registerTile_bgLen _ s
@[simp] theorem State.registerAll_bgElem (s : State) : s.registerAll.bgElem = s.bgElem :=
  foldl_registerTile_field State.bgElem State.registerTile_bgElem _ s
@[simp] theorem State.registerAll_inflight (s : State) : s.registerAll.inflight = s.inflight :=
  foldl_registerTile_field State.inflight State.registerTile_inflight _ s
@[simp] theorem State.registerAll_colours (s : State) : s.registerAll.colours = s.colours :=
  foldl_registerTile_field State.colours State.registerTile_colours _ s
@[simp] theorem State.registerAll_inbox (s : State) : s.registerAll.inbox = s.inbox :=
  foldl_registerTile_field State.inbox State.registerTile_inbox _ s
@[simp] theorem State.registerAll_reads (s : State) : s.registerAll.reads = s.reads :=
  foldl_registerTile_field State.reads State.registerTile_reads _ s
@[simp] theorem State.registerAll_latencyLeft (s : State) : s.registerAll.latencyLeft = s.latencyLeft :=
  foldl_registerTile_field State.latencyLeft State.registerTile_latencyLeft _ s
@[simp] theorem State.registerAll_draws (s : State) : s.registerAll.draws = s.draws :=
  foldl_registerTile_field State.draws State.registerTile_draws _ s
@[simp] theorem State.registerAll_resets (s : State) : s.registerAll.resets = s.resets :=
  foldl_registerTile_field State.resets State.registerTile_resets _ s

theorem foldl_registerTile_samePixels (l : List Nat) (s : State) : (l.foldl State.registerTile s).SamePixels s :=
  foldl_keeps (P := fun t => t.SamePixels s) (fun t k ht => (t.registerTile_samePixels k).trans ht) l s (State.SamePixels.refl s)

/-! ### What encoding tiles (R173 phase 3) leaves alone -/

theorem foldl_encodeTile_field {α : Type} (f : State → α) (h : ∀ s k, f (State.encodeTile s k) = f s) (l : List Nat)
    (s : State) : f (l.foldl State.encodeTile s) = f s :=
  foldl_keeps (P := fun t => f t = f s) (fun t k ht => (h t k).trans ht) l s rfl

@[simp] theorem State.encodeAll_bp (s : State) : s.encodeAll.bp = s.bp :=
  foldl_encodeTile_field State.bp State.encodeTile_bp _ s
@[simp] theorem State.encodeAll_regTile (s : State) : s.encodeAll.regTile = s.regTile :=
  foldl_encodeTile_field State.regTile State.encodeTile_regTile _ s
@[simp] theorem State.encodeAll_engine (s : State) : s.encodeAll.engine = s.engine :=
  foldl_encodeTile_field State.engine State.encodeTile_engine _ s
@[simp] theorem State.encodeAll_dropped (s : State) : s.encodeAll.dropped = s.dropped :=
  foldl_encodeTile_field State.dropped State.encodeTile_dropped _ s
@[simp] theorem State.encodeAll_err (s : State) : s.encodeAll.err = s.err :=
  foldl_encodeTile_field State.err State.encodeTile_err _ s
@[simp] theorem State.encodeAll_errCmd (s : State) : s.encodeAll.errCmd = s.errCmd :=
  foldl_encodeTile_field State.errCmd State.encodeTile_errCmd _ s
@[simp] theorem State.encodeAll_gridDim (s : State) : s.encodeAll.gridDim = s.gridDim :=
  foldl_encodeTile_field State.gridDim State.encodeTile_gridDim _ s
@[simp] theorem State.encodeAll_result (s : State) : s.encodeAll.result = s.result :=
  foldl_encodeTile_field State.result State.encodeTile_result _ s
@[simp] theorem State.encodeAll_bgLen (s : State) : s.encodeAll.bgLen = s.bgLen :=
  foldl_encodeTile_field State.bgLen State.encodeTile_bgLen _ s
@[simp] theorem State.encodeAll_bgElem (s : State) : s.encodeAll.bgElem = s.bgElem :=
  foldl_encodeTile_field State.bgElem State.encodeTile_bgElem _ s
@[simp] theorem State.encodeAll_inflight (s : State) : s.encodeAll.inflight = s.inflight :=
  foldl_encodeTile_field State.inflight State.encodeTile_inflight _ s
@[simp] theorem State.encodeAll_colours (s : State) : s.encodeAll.colours = s.colours :=
  foldl_encodeTile_field State.colours State.encodeTile_colours _ s
@[simp] theorem State.encodeAll_inbox (s : State) : s.encodeAll.inbox = s.inbox :=
  foldl_encodeTile_field State.inbox State.encodeTile_inbox _ s
@[simp] theorem State.encodeAll_reads (s : State) : s.encodeAll.reads = s.reads :=
  foldl_encodeTile_field State.reads State.encodeTile_reads _ s
@[simp] theorem State.encodeAll_latencyLeft (s : State) : s.encodeAll.latencyLeft = s.latencyLeft :=
  foldl_encodeTile_field State.latencyLeft State.encodeTile_latencyLeft _ s
@[simp] theorem State.encodeAll_draws (s : State) : s.encodeAll.draws = s.draws :=
  foldl_encodeTile_field State.draws State.encodeTile_draws _ s
@[simp] theorem State.encodeAll_resets (s : State) : s.encodeAll.resets = s.resets :=
  foldl_encodeTile_field State.resets State.encodeTile_resets _ s

theorem foldl_encodeTile_samePixels (l : List Nat) (s : State) : (l.foldl State.encodeTile s).SamePixels s :=
  foldl_keeps (P := fun t => t.SamePixels s) (fun t k ht => (t.encodeTile_samePixels k).trans ht) l s (State.SamePixels.refl s)

/-! ### What classifying blocks (R173 phase 4) leaves alone -/

theorem foldl_classifyBlock_field {α : Type} (f : State → α) (h : ∀ s k, f (State.classifyBlock s k) = f s) (l : List Nat)
    (s : State) : f (l.foldl State.classifyBlock s) = f s :=
  foldl_keeps (P := fun t => f t = f s) (fun t k ht => (h t k).trans ht) l s rfl

@[simp] theorem State.classifyAll_mem (s : State) : s.classifyAll.mem = s.mem :=
  foldl_classifyBlock_field State.mem State.classifyBlock_mem _ s
@[simp] theorem State.classifyAll_regTile (s : State) : s.classifyAll.regTile = s.regTile :=
  foldl_classifyBlock_field State.regTile State.classifyBlock_regTile _ s
@[simp] theorem State.classifyAll_engine (s : State) : s.classifyAll.engine = s.engine :=
  foldl_classifyBlock_field State.engine State.classifyBlock_engine _ s
@[simp] theorem State.classifyAll_dropped (s : State) : s.classifyAll.dropped = s.dropped :=
  foldl_classifyBlock_field State.dropped State.classifyBlock_dropped _ s
@[simp] theorem State.classifyAll_err (s : State) : s.classifyAll.err = s.err :=
  foldl_classifyBlock_field State.err State.classifyBlock_err _ s
@[simp] theorem State.classifyAll_errCmd (s : State) : s.classifyAll.errCmd = s.errCmd :=
  foldl_classifyBlock_field State.errCmd State.classifyBlock_errCmd _ s
@[simp] theorem State.classifyAll_gridDim (s : State) : s.classifyAll.gridDim = s.gridDim :=
  foldl_classifyBlock_field State.gridDim State.classifyBlock_gridDim _ s
@[simp] theorem State.classifyAll_result (s : State) : s.classifyAll.result = s.result :=
  foldl_classifyBlock_field State.result State.classifyBlock_result _ s
@[simp] theorem State.classifyAll_bgLen (s : State) : s.classifyAll.bgLen = s.bgLen :=
  foldl_classifyBlock_field State.bgLen State.classifyBlock_bgLen _ s
@[simp] theorem State.classifyAll_bgElem (s : State) : s.classifyAll.bgElem = s.bgElem :=
  foldl_classifyBlock_field State.bgElem State.classifyBlock_bgElem _ s
@[simp] theorem State.classifyAll_inflight (s : State) : s.classifyAll.inflight = s.inflight :=
  foldl_classifyBlock_field State.inflight State.classifyBlock_inflight _ s
@[simp] theorem State.classifyAll_colours (s : State) : s.classifyAll.colours = s.colours :=
  foldl_classifyBlock_field State.colours State.classifyBlock_colours _ s
@[simp] theorem State.classifyAll_inbox (s : State) : s.classifyAll.inbox = s.inbox :=
  foldl_classifyBlock_field State.inbox State.classifyBlock_inbox _ s
@[simp] theorem State.classifyAll_reads (s : State) : s.classifyAll.reads = s.reads :=
  foldl_classifyBlock_field State.reads State.classifyBlock_reads _ s
@[simp] theorem State.classifyAll_latencyLeft (s : State) : s.classifyAll.latencyLeft = s.latencyLeft :=
  foldl_classifyBlock_field State.latencyLeft State.classifyBlock_latencyLeft _ s
@[simp] theorem State.classifyAll_draws (s : State) : s.classifyAll.draws = s.draws :=
  foldl_classifyBlock_field State.draws State.classifyBlock_draws _ s
@[simp] theorem State.classifyAll_resets (s : State) : s.classifyAll.resets = s.resets :=
  foldl_classifyBlock_field State.resets State.classifyBlock_resets _ s

theorem foldl_classifyBlock_samePixels (l : List Nat) (s : State) : (l.foldl State.classifyBlock s).SamePixels s :=
  foldl_keeps (P := fun t => t.SamePixels s) (fun t k ht => (t.classifyBlock_samePixels k).trans ht) l s (State.SamePixels.refl s)

/-! ### What packing super-blocks (R173 phase 5) leaves alone -/

theorem foldl_packSuper_field {α : Type} (f : State → α) (h : ∀ s k, f (State.packSuper s k) = f s) (l : List Nat)
    (s : State) : f (l.foldl State.packSuper s) = f s :=
  foldl_keeps (P := fun t => f t = f s) (fun t k ht => (h t k).trans ht) l s rfl

@[simp] theorem State.packAll_bp (s : State) : s.packAll.bp = s.bp :=
  foldl_packSuper_field State.bp State.packSuper_bp _ s
@[simp] theorem State.packAll_regTile (s : State) : s.packAll.regTile = s.regTile :=
  foldl_packSuper_field State.regTile State.packSuper_regTile _ s
@[simp] theorem State.packAll_engine (s : State) : s.packAll.engine = s.engine :=
  foldl_packSuper_field State.engine State.packSuper_engine _ s
@[simp] theorem State.packAll_dropped (s : State) : s.packAll.dropped = s.dropped :=
  foldl_packSuper_field State.dropped State.packSuper_dropped _ s
@[simp] theorem State.packAll_err (s : State) : s.packAll.err = s.err :=
  foldl_packSuper_field State.err State.packSuper_err _ s
@[simp] theorem State.packAll_errCmd (s : State) : s.packAll.errCmd = s.errCmd :=
  foldl_packSuper_field State.errCmd State.packSuper_errCmd _ s
@[simp] theorem State.packAll_gridDim (s : State) : s.packAll.gridDim = s.gridDim :=
  foldl_packSuper_field State.gridDim State.packSuper_gridDim _ s
@[simp] theorem State.packAll_result (s : State) : s.packAll.result = s.result :=
  foldl_packSuper_field State.result State.packSuper_result _ s
@[simp] theorem State.packAll_bgLen (s : State) : s.packAll.bgLen = s.bgLen :=
  foldl_packSuper_field State.bgLen State.packSuper_bgLen _ s
@[simp] theorem State.packAll_bgElem (s : State) : s.packAll.bgElem = s.bgElem :=
  foldl_packSuper_field State.bgElem State.packSuper_bgElem _ s
@[simp] theorem State.packAll_inflight (s : State) : s.packAll.inflight = s.inflight :=
  foldl_packSuper_field State.inflight State.packSuper_inflight _ s
@[simp] theorem State.packAll_colours (s : State) : s.packAll.colours = s.colours :=
  foldl_packSuper_field State.colours State.packSuper_colours _ s
@[simp] theorem State.packAll_inbox (s : State) : s.packAll.inbox = s.inbox :=
  foldl_packSuper_field State.inbox State.packSuper_inbox _ s
@[simp] theorem State.packAll_reads (s : State) : s.packAll.reads = s.reads :=
  foldl_packSuper_field State.reads State.packSuper_reads _ s
@[simp] theorem State.packAll_latencyLeft (s : State) : s.packAll.latencyLeft = s.latencyLeft :=
  foldl_packSuper_field State.latencyLeft State.packSuper_latencyLeft _ s
@[simp] theorem State.packAll_draws (s : State) : s.packAll.draws = s.draws :=
  foldl_packSuper_field State.draws State.packSuper_draws _ s
@[simp] theorem State.packAll_resets (s : State) : s.packAll.resets = s.resets :=
  foldl_packSuper_field State.resets State.packSuper_resets _ s

theorem foldl_packSuper_samePixels (l : List Nat) (s : State) : (l.foldl State.packSuper s).SamePixels s :=
  foldl_keeps (P := fun t => t.SamePixels s) (fun t k ht => (t.packSuper_samePixels k).trans ht) l s (State.SamePixels.refl s)

/-! ### What RUN leaves alone -/

theorem State.pipeline_samePixels (s : State) : s.pipeline.SamePixels s := by
  unfold State.pipeline
  exact (foldl_packSuper_samePixels _ _).trans <| (foldl_classifyBlock_samePixels _ _).trans <|
    (foldl_encodeTile_samePixels _ _).trans <| (foldl_registerTile_samePixels _ _).trans s.startRun_samePixels

/-- RUN writes memory, BP and the registry, and nothing else, before its RESULT and STATE. -/
theorem State.pipeline_eq (s : State) :
    s.pipeline = { s with mem := s.pipeline.mem, bp := s.pipeline.bp, regTile := s.pipeline.regTile } := by
  unfold State.pipeline
  apply State.ext <;> simp

/-! ### What every command leaves alone (R251) -/

theorem State.clearEngine_samePixels (s : State) : s.clearEngine.SamePixels s :=
  ⟨fun a ha => by
    simp only [State.clearEngine_mem, Memory.read_forget, ptBase, atBase, ntBase]
    rw [if_neg (by omega), if_neg (by omega), if_neg (by omega)], rfl⟩

/-- Two states with equal memory and resets have the same pixels. -/
theorem State.samePixels_of_mem {s t : State} (hm : t.mem = s.mem) (hr : t.resets = s.resets) : t.SamePixels s :=
  ⟨fun _ _ => by rw [hm], hr⟩

/-- No command writes PIXMEM. -/
theorem effectOf_samePixels (i : Instr) (s : State) : (effectOf i s).SamePixels s := by
  cases i with
  | nop => exact State.SamePixels.refl s
  | clear => exact s.clearEngine_samePixels
  | run =>
    exact (State.samePixels_of_mem (State.finish_mem _ _) (State.finish_resets _ _)).trans s.pipeline_samePixels
  | register t =>
    exact (State.samePixels_of_mem (State.finish_mem _ _) (State.finish_resets _ _)).trans (s.registerTile_samePixels _)
  | encode id =>
    exact (State.samePixels_of_mem (State.finish_mem _ _) (State.finish_resets _ _)).trans (s.encodeTile_samePixels _)
  | classify b =>
    exact (State.samePixels_of_mem (State.finish_mem _ _) (State.finish_resets _ _)).trans (s.classifyBlock_samePixels _)
  | packattr k =>
    exact (State.samePixels_of_mem (State.finish_mem _ _) (State.finish_resets _ _)).trans (s.packSuper_samePixels _)
  | chkdim => exact State.samePixels_of_mem (State.finish_mem _ _) (State.finish_resets _ _)
  | validate t => exact State.samePixels_of_mem (State.finish_mem _ _) (State.finish_resets _ _)
  | pack8 => exact State.samePixels_of_mem (State.finish_mem _ _) (State.finish_resets _ _)

@[simp] theorem State.pipeline_gridDim (s : State) : s.pipeline.gridDim = s.gridDim := by
  unfold State.pipeline; simp

@[simp] theorem State.pipeline_bgLen (s : State) : s.pipeline.bgLen = s.bgLen := by
  unfold State.pipeline; simp

@[simp] theorem State.pipeline_bgElem (s : State) : s.pipeline.bgElem = s.bgElem := by
  unfold State.pipeline; simp

@[simp] theorem State.pipeline_inflight (s : State) : s.pipeline.inflight = s.inflight := by
  unfold State.pipeline; simp

@[simp] theorem State.pipeline_colours (s : State) : s.pipeline.colours = s.colours := by
  unfold State.pipeline; simp

@[simp] theorem State.pipeline_inbox (s : State) : s.pipeline.inbox = s.inbox := by
  unfold State.pipeline; simp

@[simp] theorem State.pipeline_reads (s : State) : s.pipeline.reads = s.reads := by
  unfold State.pipeline; simp

@[simp] theorem State.pipeline_latencyLeft (s : State) : s.pipeline.latencyLeft = s.latencyLeft := by
  unfold State.pipeline; simp

@[simp] theorem State.pipeline_draws (s : State) : s.pipeline.draws = s.draws := by
  unfold State.pipeline; simp

@[simp] theorem State.pipeline_resets (s : State) : s.pipeline.resets = s.resets := by
  unfold State.pipeline; simp

@[simp] theorem effectOf_gridDim (i : Instr) (s : State) : (effectOf i s).gridDim = s.gridDim := by
  cases i
  case run => exact (State.finish_gridDim _ _).trans s.pipeline_gridDim
  all_goals simp [effectOf]

@[simp] theorem effectOf_bgLen (i : Instr) (s : State) : (effectOf i s).bgLen = s.bgLen := by
  cases i
  case run => exact (State.finish_bgLen _ _).trans s.pipeline_bgLen
  all_goals simp [effectOf]

@[simp] theorem effectOf_bgElem (i : Instr) (s : State) : (effectOf i s).bgElem = s.bgElem := by
  cases i
  case run => exact (State.finish_bgElem _ _).trans s.pipeline_bgElem
  all_goals simp [effectOf]

@[simp] theorem effectOf_inflight (i : Instr) (s : State) : (effectOf i s).inflight = s.inflight := by
  cases i
  case run => exact (State.finish_inflight _ _).trans s.pipeline_inflight
  all_goals simp [effectOf]

@[simp] theorem effectOf_colours (i : Instr) (s : State) : (effectOf i s).colours = s.colours := by
  cases i
  case run => exact (State.finish_colours _ _).trans s.pipeline_colours
  all_goals simp [effectOf]

@[simp] theorem effectOf_inbox (i : Instr) (s : State) : (effectOf i s).inbox = s.inbox := by
  cases i
  case run => exact (State.finish_inbox _ _).trans s.pipeline_inbox
  all_goals simp [effectOf]

@[simp] theorem effectOf_reads (i : Instr) (s : State) : (effectOf i s).reads = s.reads := by
  cases i
  case run => exact (State.finish_reads _ _).trans s.pipeline_reads
  all_goals simp [effectOf]

@[simp] theorem effectOf_latencyLeft (i : Instr) (s : State) : (effectOf i s).latencyLeft = s.latencyLeft := by
  cases i
  case run => exact (State.finish_latencyLeft _ _).trans s.pipeline_latencyLeft
  all_goals simp [effectOf]

@[simp] theorem effectOf_draws (i : Instr) (s : State) : (effectOf i s).draws = s.draws := by
  cases i
  case run => exact (State.finish_draws _ _).trans s.pipeline_draws
  all_goals simp [effectOf]

@[simp] theorem effectOf_resets (i : Instr) (s : State) : (effectOf i s).resets = s.resets := by
  cases i
  case run => exact (State.finish_resets _ _).trans s.pipeline_resets
  all_goals simp [effectOf]

/-! ### What each phase of RUN does (R173) -/

/-- What registering the tiles `0 .. n-1` of `s` in order, from an empty registry, leaves in `u` (R124). -/
structure State.Registered (s u : State) (n : Nat) : Prop where
  nodup : u.regTile.Nodup
  count : u.regCount ≤ n
  names : ∀ k < n, u.regTile[(u.nt k).toNat]? = some (s.tile k)
  used  : ∀ id < u.regCount, ∃ k < n, (u.nt k).toNat = id
  steps : ∀ k < n, (u.nt k).toNat = 0 ∨ ∃ j < k, (u.nt k).toNat ≤ (u.nt j).toNat + 1
  frame : ∀ a, ¬ (ntBase ≤ a ∧ a < ntBase + n) → Memory.read u.mem a = Memory.read s.mem a
  pixels : u.SamePixels s

theorem State.Registered.zero {s : State} (h : s.regTile = []) : s.Registered s 0 where
  nodup := h ▸ List.nodup_nil
  count := by simp [State.regCount, h]
  names := fun k hk => absurd hk (Nat.not_lt_zero k)
  used  := fun id hid => by simp [State.regCount, h] at hid
  steps := fun k hk => absurd hk (Nat.not_lt_zero k)
  frame := fun _ _ => rfl
  pixels := State.SamePixels.refl s

theorem State.Registered.succ {s u : State} {n : Nat} (h : s.Registered u n) (hn : n < 256) :
    s.Registered (u.registerTile n) (n + 1) := by
  have htile : u.tile n = s.tile n := h.pixels.tile hn
  have hid : (u.idOf n).2 ≤ n := by
    rcases u.idOf_cases n with ⟨id, hf, hi⟩ | ⟨-, hi⟩ <;> rw [hi]
    · have := (List.getElem?_eq_some_iff.mp (State.findTile_eq_some.mp hf).1).1
      have := h.count
      unfold State.regCount at this
      omega
    · exact h.count
  have hnt : ∀ k, k < n → (u.registerTile n).nt k = u.nt k := fun k hk => by
    rw [State.nt_registerTile, if_neg (by omega)]
  have hnn : ((u.registerTile n).nt n).toNat = (u.idOf n).2 := by
    rw [State.nt_registerTile, if_pos rfl, BitVec.toNat_ofNat, Nat.mod_eq_of_lt (by omega)]
  obtain ⟨new, happ, hlen, -⟩ := u.registerTile_append n
  have hnew : (u.registerTile n).regCount ≤ u.regCount ∨
      ((u.registerTile n).regCount = u.regCount + 1 ∧ (u.idOf n).2 = u.regCount) := by
    unfold State.regCount
    rw [State.registerTile_regTile]
    rcases u.idOf_cases n with ⟨id, hf, hi⟩ | ⟨-, hi⟩ <;> rw [hi]
    · exact .inl (Nat.le_refl _)
    · exact .inr ⟨by simp, rfl⟩
  refine ⟨u.registerTile_nodup n h.nodup, ?_, fun k hk => ?_, fun id hid => ?_, fun k hk => ?_, fun a ha => ?_,
    (u.registerTile_samePixels n).trans h.pixels⟩
  · have := h.count; omega
  · rcases Nat.lt_or_eq_of_le (Nat.le_of_lt_succ hk) with hk | rfl
    · rw [hnt k hk, happ, List.getElem?_append_left]
      · exact h.names k hk
      · exact (List.getElem?_eq_some_iff.mp (h.names k hk)).1
    · rw [hnn, u.registerTile_getElem?, htile]
  · by_cases hlt : id < u.regCount
    · obtain ⟨k, hk, he⟩ := h.used id hlt
      exact ⟨k, by omega, by rw [hnt k hk, he]⟩
    · refine ⟨n, by omega, ?_⟩
      rw [hnn]
      rcases hnew with hle | ⟨heq, hid'⟩ <;> omega
  · rcases Nat.lt_or_eq_of_le (Nat.le_of_lt_succ hk) with hk | rfl
    · rw [hnt k hk]
      refine (h.steps k hk).imp_right fun ⟨j, hj, hle⟩ => ⟨j, hj, ?_⟩
      rw [hnt j (by omega)]; exact hle
    · rw [hnn]
      by_cases hz : (u.idOf k).2 = 0
      · exact .inl hz
      · right
        have hle : (u.idOf k).2 ≤ u.regCount := by
          rcases u.idOf_cases k with ⟨id, hf, hi⟩ | ⟨-, hi⟩ <;> rw [hi]
          · exact Nat.le_of_lt (List.getElem?_eq_some_iff.mp (State.findTile_eq_some.mp hf).1).1
        obtain ⟨j, hj, he⟩ := h.used ((u.idOf k).2 - 1) (by omega)
        exact ⟨j, hj, by rw [hnt j hj, he]; omega⟩
  · rw [State.registerTile_mem, Memory.read_write, if_neg (by omega)]
    exact h.frame a (by omega)

/-- Phase 2 (R173), from an empty registry. -/
theorem State.registerAll_registered {s : State} (h : s.regTile = []) : s.Registered s.registerAll 256 :=
  foldl_range_induction (P := fun n u => s.Registered u n) 256 (State.Registered.zero h) fun _ _ hk hu => hu.succ hk

/-- Phase 3 (R173): the pattern entries of the registered tiles, in ID order, and nothing else. -/
theorem State.pt_encodeAll (s : State) (i : Nat) :
    s.encodeAll.pt i =
      if i < 16 * s.regCount then patternByte s.colours (s.regTileAt (i / 16)) (i % 16) else s.pt i := by
  have key : ∀ n, let u := (List.range n).foldl State.encodeTile s
      u.colours = s.colours ∧ u.regTile = s.regTile ∧ ∀ i,
        u.pt i = if i < 16 * n then patternByte s.colours (s.regTileAt (i / 16)) (i % 16) else s.pt i := by
    intro n
    induction n with
    | zero => exact ⟨rfl, rfl, fun i => by rw [if_neg (by omega)]; rfl⟩
    | succ n ih =>
      obtain ⟨hc, hr, hi⟩ := ih
      rw [foldl_range_succ]
      refine ⟨hc, hr, fun i => ?_⟩
      rw [State.pt_encodeTile, hc, hi i]
      by_cases h : 16 * n ≤ i ∧ i < 16 * n + 16
      · rw [if_pos h, if_pos (by omega), show i / 16 = n by omega, show i % 16 = i - 16 * n by omega]
        unfold State.regTileAt
        rw [hr]
      · rw [if_neg h]
        by_cases hl : i < 16 * n
        · rw [if_pos hl, if_pos (by omega)]
        · rw [if_neg hl, if_neg (by omega)]
  exact (key s.regCount).2.2 i

/-- Phase 3 writes nothing outside the entries of the registered IDs. -/
theorem State.read_encodeAll (s : State) {a : Nat} (h : ¬ (ptBase ≤ a ∧ a < ptBase + 16 * s.regCount)) :
    Memory.read s.encodeAll.mem a = Memory.read s.mem a := by
  have key : ∀ n ≤ s.regCount, Memory.read ((List.range n).foldl State.encodeTile s).mem a = Memory.read s.mem a := by
    intro n
    induction n with
    | zero => exact fun _ => rfl
    | succ n ih =>
      intro hn
      rw [foldl_range_succ, State.encodeTile_mem, Memory.read_writeRange, if_neg (by omega)]
      exact ih (by omega)
  exact key _ (Nat.le_refl _)

/-- Phase 4 (R173): every block's bit. -/
theorem State.blockPalette_classifyAll (s : State) {b : Nat} (hb : b < 64) :
    s.classifyAll.blockPalette b = s.classifyTiles (blockTiles b) := by
  have key : ∀ n ≤ 64, let u := (List.range n).foldl State.classifyBlock s
      u.colours = s.colours ∧ u.SamePixels s ∧ ∀ b < n, u.blockPalette b = s.classifyTiles (blockTiles b) := by
    intro n
    induction n with
    | zero => exact fun _ => ⟨rfl, State.SamePixels.refl s, fun b hb => absurd hb (Nat.not_lt_zero b)⟩
    | succ n ih =>
      intro hn
      obtain ⟨hc, hp, hi⟩ := ih (by omega)
      rw [foldl_range_succ]
      refine ⟨(State.classifyBlock_colours _ _).trans hc, (State.classifyBlock_samePixels _ n).trans hp, fun b hb => ?_⟩
      rw [State.blockPalette_classifyBlock]
      by_cases h : b = n
      · subst h
        rw [if_pos ⟨rfl, by omega⟩, Bool.eq_iff_iff, State.classifyTiles_iff, State.classifyTiles_iff, hc]
        refine exists_congr fun t => and_congr_right fun ht => exists_congr fun p => and_congr_right fun hp' => ?_
        rw [hp.pixmem (tilePixel_lt (blockTiles_lt (by omega) ht) hp')]
      · rw [if_neg (by simp [h])]
        exact hi b (by omega)
  exact (key 64 (Nat.le_refl 64)).2.2 b hb

/-- Phase 5 (R173): every super-block's attribute byte. -/
theorem State.attr_packAll (s : State) {k : Nat} (hk : k < 16) : s.packAll.attr k = s.attrOf k := by
  have key : ∀ n, let u := (List.range n).foldl State.packSuper s
      u.bp = s.bp ∧ ∀ k < n, u.attr k = s.attrOf k := by
    intro n
    induction n with
    | zero => exact ⟨rfl, fun k hk => absurd hk (Nat.not_lt_zero k)⟩
    | succ n ih =>
      obtain ⟨hb, hi⟩ := ih
      rw [foldl_range_succ]
      refine ⟨(State.packSuper_bp _ n).trans hb, fun k hk => ?_⟩
      rw [State.attr_packSuper]
      by_cases h : k = n
      · subst h
        rw [if_pos rfl]
        unfold State.attrOf State.blockPalette
        rw [hb]
      · rw [if_neg h]
        exact hi k (by omega)
  exact (key 16).2 k hk

/-- Phase 5 writes nothing outside AT. -/
theorem State.read_packAll (s : State) {a : Nat} (h : ¬ (atBase ≤ a ∧ a < atBase + 16)) :
    Memory.read s.packAll.mem a = Memory.read s.mem a := by
  have key : ∀ n ≤ 16, Memory.read ((List.range n).foldl State.packSuper s).mem a = Memory.read s.mem a := by
    intro n
    induction n with
    | zero => exact fun _ => rfl
    | succ n ih =>
      intro hn
      rw [foldl_range_succ, State.packSuper_mem, Memory.read_write, if_neg (by omega)]
      exact ih (by omega)
  exact key _ (Nat.le_refl _)

/-- The nametable after RUN is that of phase 2. -/
theorem State.nt_pipeline (s : State) {k : Nat} (hk : k < 256) :
    s.pipeline.nt k = s.startRun.registerAll.nt k := by
  have hc := (State.registerAll_registered (s := s.startRun) rfl).count
  unfold State.pipeline State.nt Memory.byte
  rw [State.read_packAll _ (by simp only [ntBase, atBase]; omega), State.classifyAll_mem, State.read_encodeAll _ (by simp only [ntBase, ptBase]; omega)]

/-- The registry after RUN is that of phase 2. -/
theorem State.pipeline_regTile (s : State) : s.pipeline.regTile = s.startRun.registerAll.regTile := by
  unfold State.pipeline; simp

/-- The pattern table after RUN (R137). -/
theorem State.pt_pipeline (s : State) {i : Nat} (hi : i < 4096) :
    s.pipeline.pt i =
      if i < 16 * s.pipeline.regCount then patternByte s.colours (s.pipeline.regTileAt (i / 16)) (i % 16) else 0 := by
  have hR := (State.registerAll_registered (s := s.startRun) rfl)
  have h1 : s.pipeline.pt i = s.startRun.registerAll.encodeAll.pt i := by
    unfold State.pipeline State.pt Memory.byte
    rw [State.read_packAll _ (by simp only [ptBase, atBase]; omega), State.classifyAll_mem]
  have h2 : s.startRun.registerAll.pt i = 0 := by
    unfold State.pt Memory.byte
    rw [hR.frame _ (by simp only [ptBase, ntBase]; omega)]
    rw [State.startRun_mem, Memory.read_forget, if_pos (by omega), Memory.unlisted_output (by simp only [ptBase]; omega)]; rfl
  rw [h1, State.pt_encodeAll, h2]
  unfold State.regTileAt State.regCount; rw [State.pipeline_regTile]; simp

/-- The block palettes after RUN (R175). -/
theorem State.blockPalette_pipeline (s : State) {b : Nat} (hb : b < 64) :
    s.pipeline.blockPalette b = s.classifyTiles (blockTiles b) := by
  have hR := (State.registerAll_registered (s := s.startRun) rfl)
  have hp : s.startRun.registerAll.encodeAll.SamePixels s := (foldl_encodeTile_samePixels _ _).trans (hR.pixels.trans s.startRun_samePixels)
  have : s.pipeline.blockPalette b = s.startRun.registerAll.encodeAll.classifyAll.blockPalette b := by
    unfold State.pipeline State.blockPalette; rw [State.packAll_bp]
  rw [this, State.blockPalette_classifyAll _ hb, Bool.eq_iff_iff, State.classifyTiles_iff, State.classifyTiles_iff]
  refine exists_congr fun t => and_congr_right fun ht => exists_congr fun p => and_congr_right fun hp' => ?_
  rw [hp.pixmem (tilePixel_lt (blockTiles_lt hb ht) hp')]; simp

/-- The attribute table after RUN (R175). -/
theorem State.attr_pipeline (s : State) {k : Nat} (hk : k < 16) : s.pipeline.attr k = s.pipeline.attrOf k := by
  have : s.pipeline = s.startRun.registerAll.encodeAll.classifyAll.packAll := by unfold State.pipeline; rfl
  rw [this, State.attr_packAll _ hk]
  unfold State.attrOf State.blockPalette; rw [State.packAll_bp]

/-- RUN writes nothing outside NT, AT and PT. -/
theorem State.read_pipeline (s : State) {a : Nat}
    (ha : a < ntBase ∨ (ntBase + 256 ≤ a ∧ a < atBase) ∨ (atBase + 16 ≤ a ∧ a < ptBase) ∨ ptBase + 4096 ≤ a) :
    Memory.read s.pipeline.mem a = Memory.read s.mem a := by
  have hR := State.registerAll_registered (s := s.startRun) rfl
  have hc := hR.count
  simp only [ntBase, atBase, ptBase] at ha
  unfold State.pipeline
  rw [State.read_packAll _ (by simp only [atBase]; omega), State.classifyAll_mem,
    State.read_encodeAll _ (by simp only [ptBase]; omega), hR.frame _ (by simp only [ntBase]; omega),
    State.startRun_mem, Memory.read_forget, if_neg (by simp only [ptBase]; omega)]

end Sys2Proof.Machine
end

