-- ==== Sys2Proof/Laws/Step.lean ====
section
/-! SUPPORT. What one step is: the completion that is due, else the host's next move, else nothing (R63, R170). And the
address map: which place an offset selects (R52). -/

namespace Sys2Proof.Machine

/-! ### The address map -/

theorem portOf_of_word {off : Offset} {w : Nat} (h : off.toNat / 4 = w) : portOf off = portOfWord w := by
  unfold portOf; rw [h]

theorem portOf_cmd {off : Offset} (h : off.toNat / 4 = 0x4000) : portOf off = .cmd := portOf_of_word h

theorem portOf_pixmem {off : Offset} (h : off.toNat / 4 < 0x4000) : portOf off = .pixmem (off.toNat / 4) := by
  unfold portOf portOfWord; rw [if_pos h]

theorem portOfWord_bgElem (k : Fin 4) : portOfWord (0x4009 + k.val) = .bgElem k := by
  revert k; decide

theorem portOfWord_nt {k : Nat} (h : k < 64) : portOfWord (0x4040 + k) = .ntWord k := by
  unfold portOfWord
  iterate 16 rw [if_neg (by omega)]
  rw [if_pos (by omega), Nat.add_sub_cancel_left]

theorem portOfWord_at {k : Nat} (h : k < 4) : portOfWord (0x4080 + k) = .atWord k := by
  unfold portOfWord
  iterate 17 rw [if_neg (by omega)]
  rw [if_pos (by omega), Nat.add_sub_cancel_left]

theorem portOfWord_pt {k : Nat} (h : k < 1024) : portOfWord (0x4400 + k) = .ptWord k := by
  unfold portOfWord
  iterate 18 rw [if_neg (by omega)]
  rw [if_pos (by omega), Nat.add_sub_cancel_left]

/-- R54: the reserved offsets of the map. -/
theorem portOf_reserved {off : Offset}
    (h : (0x10034 ≤ off.toNat ∧ off.toNat < 0x10040) ∨ (0x10048 ≤ off.toNat ∧ off.toNat < 0x10100) ∨
      (0x10210 ≤ off.toNat ∧ off.toNat < 0x11000) ∨ 0x12000 ≤ off.toNat) : portOf off = .reserved := by
  unfold portOf portOfWord
  iterate 19 rw [if_neg (by omega)]

theorem ite_ne {α : Type} {c : Prop} [Decidable c] {a b x : α} (ha : a ≠ x) (hb : b ≠ x) :
    (if c then a else b) ≠ x := by
  split <;> assumption

/-- Only the offsets of PIXMEM select PIXMEM (R52). -/
theorem portOf_eq_pixmem {off : Offset} {i : Nat} (h : portOf off = .pixmem i) :
    i = off.toNat / 4 ∧ off.toNat / 4 < 0x4000 := by
  by_cases ho : off.toNat / 4 < 0x4000
  · rw [portOf_pixmem ho] at h
    exact ⟨(Port.pixmem.inj h).symm, ho⟩
  · exfalso
    revert h
    unfold portOf portOfWord
    rw [if_neg ho]
    repeat' apply ite_ne
    all_goals exact Port.noConfusion

/-- Only the offset of CMD selects CMD (R52). -/
theorem portOf_eq_cmd {off : Offset} (h : portOf off = .cmd) : off.toNat / 4 = 0x4000 := by
  by_cases ho : off.toNat / 4 = 0x4000
  · exact ho
  · exfalso
    revert h
    unfold portOf portOfWord
    rw [if_neg ho]
    repeat' apply ite_ne
    all_goals exact Port.noConfusion
/-! ### A step -/

theorem step_of_due {s : State} (h : s.completionDue = true) : step s = s.complete := by
  unfold step State.advance; rw [if_pos h]

theorem step_of_host {s : State} {m : HostMove} {rest : List HostMove} (h : s.HostMoves m rest) :
    step s = (s.takeMove rest).hostMove m := by
  unfold step State.advance; rw [h.2, h.1]; rfl

theorem step_of_idle {s : State} (h : s.completionDue = false) (hi : s.inbox = []) : step s = .next s := by
  unfold step State.advance; rw [h, hi]; rfl

/-- A step is the completion that is due, the host's next move, or nothing. -/
theorem step_cases (s : State) :
    (s.completionDue = true ∧ step s = s.complete) ∨
    (∃ m rest, s.HostMoves m rest ∧ step s = (s.takeMove rest).hostMove m) ∨
    (s.completionDue = false ∧ s.inbox = [] ∧ step s = .next s) := by
  cases hd : s.completionDue with
  | true => exact .inl ⟨rfl, step_of_due hd⟩
  | false =>
    cases hi : s.inbox with
    | nil => exact .inr (.inr ⟨rfl, rfl, step_of_idle hd hi⟩)
    | cons m rest => exact .inr (.inl ⟨m, rest, ⟨hi, hd⟩, step_of_host ⟨hi, hd⟩⟩)

theorem State.hostWrite_cmd (s : State) {off : Offset} (h : portOf off = .cmd) (v : Word) :
    s.hostWrite off v = s.submit v := by
  unfold State.hostWrite; rw [h]

theorem State.hostWrite_other (s : State) {off : Offset} (h : portOf off ≠ .cmd) (v : Word) :
    s.hostWrite off v = .next (s.hostStore (portOf off) v) := by
  unfold State.hostWrite
  split
  · next hc => exact absurd hc h
  · rfl

/-- A host write to CMD is a submission (R170). -/
theorem step_of_submit {s : State} {off : Offset} {v : Word} {rest : List HostMove}
    (h : s.HostMoves (.write off v) rest) (ho : portOf off = .cmd) : step s = (s.takeMove rest).submit v :=
  (step_of_host h).trans (State.hostWrite_cmd _ ho v)

/-- A host write elsewhere stores or is dropped (R55, R60). -/
theorem step_of_store {s : State} {off : Offset} {v : Word} {rest : List HostMove}
    (h : s.HostMoves (.write off v) rest) (ho : portOf off ≠ .cmd) :
    step s = .next ((s.takeMove rest).hostStore (portOf off) v) :=
  (step_of_host h).trans (State.hostWrite_other _ ho v)

/-- What a submission can do (R170): drop the word, run NOP, or accept the word. -/
theorem State.submit_cases (s : State) (w : Word) :
    (s.submit w = .next s.drop ∧ (s.engine = .busy ∨ (s.engine = .error ∧ w ≠ encode .clear))) ∨
    (s.submit w = .next s ∧ w = encode .nop ∧ (s.engine = .idle ∨ s.engine = .done)) ∨
    (s.submit w = .next (s.accept w) ∧ w ≠ encode .nop ∧
      (s.engine = .idle ∨ s.engine = .done ∨ (s.engine = .error ∧ w = encode .clear))) := by
  unfold State.submit
  cases he : s.engine <;> by_cases hn : w = encode .nop <;> by_cases hc : w = encode .clear
  all_goals simp_all [exec, execNop]
  all_goals revert hn; decide

/-- A completion (R170): the command INFLIGHT decodes to, or error entry for an illegal word. -/
theorem State.complete_cases (s : State) :
    (∃ i, decode s.inflight = .command i ∧ s.complete = exec i s) ∨
    (∃ e, e.code ≠ .noError ∧ s.complete = .next (s.enterError e)) := by
  unfold State.complete
  split
  · next i h => exact .inl ⟨i, h, rfl⟩
  · exact .inr ⟨_, by simp, rfl⟩
  · exact .inr ⟨_, by simp, rfl⟩

/-- A host write is a submission or a store. -/
theorem State.hostWrite_cases (s : State) (off : Offset) (v : Word) :
    (portOf off = .cmd ∧ s.hostWrite off v = s.submit v) ∨
    (portOf off ≠ .cmd ∧ s.hostWrite off v = .next (s.hostStore (portOf off) v)) := by
  by_cases h : portOf off = .cmd
  · exact .inl ⟨h, s.hostWrite_cmd h v⟩
  · exact .inr ⟨h, s.hostWrite_other h v⟩

/-- What the host's next move can do to the machine; it always answers a next state. -/
theorem State.hostMove_cases (s : State) (m : HostMove) :
    (∃ off, m = .read off ∧ s.hostMove m = .next (s.hostRead off)) ∨
    (m = .poll ∧ s.hostMove m = .next s.pollOnce) ∨
    (m = .reset ∧ s.hostMove m = .next s.hardReset) ∨
    (∃ off v, m = .write off v ∧ portOf off ≠ .cmd ∧ s.hostMove m = .next (s.hostStore (portOf off) v)) ∨
    (∃ off w, m = .write off w ∧ portOf off = .cmd ∧ s.hostMove m = s.submit w) := by
  cases m with
  | read off => exact .inl ⟨off, rfl, rfl⟩
  | poll => exact .inr (.inl ⟨rfl, rfl⟩)
  | reset => exact .inr (.inr (.inl ⟨rfl, rfl⟩))
  | write off v =>
    rcases s.hostWrite_cases off v with ⟨hp, hw⟩ | ⟨hp, hw⟩
    · exact .inr (.inr (.inr (.inr ⟨off, v, rfl, hp, hw⟩)))
    · exact .inr (.inr (.inr (.inl ⟨off, v, rfl, hp, hw⟩)))

/-- A host write to a place other than CMD is dropped, or stores in one input, or does nothing (R55, R60). -/
theorem State.hostStore_cases (s : State) (p : Port) (v : Word) :
    s.hostStore p v = s.drop ∨
    (s.engine ≠ .busy ∧
      ((∃ i, p = .pixmem i ∧ s.hostStore p v = { s with mem := Memory.writeWord s.mem (4 * i) v }) ∨
       (p = .gridDim ∧ s.hostStore p v = { s with gridDim := v }) ∨
       (p = .bgLen ∧ s.hostStore p v = { s with bgLen := v.extractLsb' 0 8 }) ∨
       ∃ k, p = .bgElem k ∧ s.hostStore p v = { s with bgElem := s.bgElem.set k.val v })) ∨
    (p.isInput = false ∧ s.hostStore p v = s) := by
  unfold State.hostStore
  cases p <;> by_cases hb : s.engine = .busy <;> simp [Port.isInput, State.writePort, hb]

/-! ### Runs -/

/-- A run whose first step has a next state. -/
theorem run_succ_next (M : Host.Core) {s t : M.State} (h : M.step s = .next t) (k : Nat) :
    M.run (k + 1) s = M.run k t := by
  simp only [Host.Core.run, h]

/-- A run whose first step faults. -/
theorem run_succ_fault (M : Host.Core) {s : M.State} {f : M.Fault} (h : M.step s = .fault f) (k : Nat) :
    M.run (k + 1) s = .fault f := by
  simp only [Host.Core.run, h]
end Sys2Proof.Machine
end

