-- ==== Sys2Proof/Tests/Slice0.lean ====
section
/-! SUPPORT. Tests: the checks of WellFormed, a written-out word of every command, one or two steps of each command with
the values of spec/95_test_vectors.md, and for every obligation with hypotheses a witness that meets them. -/

namespace Sys2Proof.Tests

open Sys2Proof.Machine

/-! ### Well-formedness (R75): the check refuses each ill-formed term -/

theorem test_classify_64_is_ill_formed : (Instr.classify 64).wf = false := by decide
theorem test_packattr_16_is_ill_formed : (Instr.packattr 16).wf = false := by decide
theorem test_largest_operands_are_well_formed :
    (Instr.classify 63).wf = true ∧ (Instr.packattr 15).wf = true ∧ (Instr.validate 255).wf = true := by decide

/-! ### Decoding: words written out from R72 and R73 (RSV1, ARG, RSV0, OP), and V6.1 -/

theorem test_decode_nop : decode 0b0000000000000000_00000000_0000_0000#32 = .command .nop := by decide
theorem test_decode_run : decode 0b0000000000000000_00000000_0000_0001#32 = .command .run := by decide
theorem test_decode_clear : decode 0b0000000000000000_00000000_0000_0010#32 = .command .clear := by decide
theorem test_decode_chkdim : decode 0b0000000000000000_00000000_0000_0011#32 = .command .chkdim := by decide
theorem test_decode_validate : decode 0b0000000000000000_11111111_0000_0100#32 = .command (.validate 255) := by decide
theorem test_decode_register : decode 0b0000000000000000_00010001_0000_0101#32 = .command (.register 17) := by decide
theorem test_decode_encode : decode 0b0000000000000000_00000010_0000_0110#32 = .command (.encode 2) := by decide
theorem test_decode_classify : decode 0b0000000000000000_00111111_0000_0111#32 = .command (.classify 63) := by decide
theorem test_decode_packattr : decode 0b0000000000000000_00001111_0000_1000#32 = .command (.packattr 15) := by decide
theorem test_decode_pack8 : decode 0b0000000000000000_00000000_0000_1001#32 = .command .pack8 := by decide

theorem test_decode_illegal_words :
    [0x00000100, 0x00000101, 0x0000000A, 0x0000000F, 0x00000010, 0x00010000, 0x80000005].all
      (fun w : Word => decode w = .illegalCommand) = true := by decide

theorem test_decode_illegal_operands :
    decode 0x00004007 = .illegalOperand 64 ∧ decode 0x0000FF07 = .illegalOperand 255 ∧
      decode 0x00001008 = .illegalOperand 16 := by decide

/-! ### Small states -/

/-- A machine after reset with the dimensions set and concrete colours: grey 0, black 1, light-green 2, dark-green 3,
white 4, pink 5. The word 6 is PIX_BAD. -/
def ready : State := { State.reset with gridDim := 0x00800080, colours := {} }

/-- A machine whose command word `w` completes now. -/
def running (w : Word) : State := { ready with engine := .busy, inflight := w }

/-- A machine whose host makes the move `m` next, in engine state `e`. -/
def moving (e : EngineState) (m : HostMove) : State := { ready with engine := e, inbox := [m], latencyLeft := 1 }

/-- STATUS, RESULT and ERR of a next state. -/
def observed (r : Machine.Result) : Option (Word × Word × Word) :=
  match r with
  | .next t => some (t.statusWord, t.resultWord, t.err.word)
  | .fault _ | .refused _ => none

/-- What a next state reads. -/
def after {α : Type} (r : Machine.Result) (f : State → α) : Option α :=
  match r with
  | .next t => some (f t)
  | .fault _ | .refused _ => none

theorem after_next {α : Type} (t : State) (f : State → α) : after (.next t) f = some (f t) := rfl

/-- The tile of row 5 of V3.1: GREY, BLACK, LGREEN, DGREEN, WHITE, PINK, GREY, BLACK, then GREY. -/
def designPixel (p : Nat) : Word := [0, 1, 2, 3, 4, 5, 0, 1].getD p 0

/-- That tile as the registry holds it. -/
def designTile : Tile := Vector.ofFn fun p : Fin 64 => designPixel p

/-! ### A loaded grid -/

/-- The cells of PIXMEM from offset `lo` on, `n` of them, holding the words `f`. -/
def gridCells (f : Nat → Word) (lo n : Nat) : Memory :=
  (List.range' lo n).map fun a => (a, byteOf (f (a / 4)) (a % 4))

theorem read_gridCells (f : Nat → Word) (lo n x : Nat) :
    Memory.read (gridCells f lo n) x =
      if lo ≤ x ∧ x < lo + n then some (byteOf (f (x / 4)) (x % 4)) else Memory.unlisted x := by
  induction n generalizing lo with
  | zero => rw [if_neg (by omega)]; rfl
  | succ n ih =>
    show (if lo = x then _ else Memory.read (gridCells f (lo + 1) n) x) = _
    by_cases h : lo = x
    · subst h
      rw [if_pos rfl, if_pos (by omega)]
    · rw [if_neg h, ih]
      by_cases hx : lo + 1 ≤ x ∧ x < lo + 1 + n
      · rw [if_pos hx, if_pos (by omega)]
      · rw [if_neg hx, if_neg (by omega)]

theorem rising_gridCells (f : Nat → Word) (lo n : Nat) (h : lo + n ≤ 0x10000) :
    Memory.risingFrom lo (gridCells f lo n) = true := by
  induction n generalizing lo with
  | zero => rfl
  | succ n ih =>
    show (decide (lo ≤ lo) && decide (Memory.unlisted lo ≠ some (byteOf (f (lo / 4)) (lo % 4))) &&
      Memory.risingFrom (lo + 1) (gridCells f (lo + 1) n)) = true
    rw [ih (lo + 1) (by omega), Memory.unlisted_pixmem (by omega)]
    simp

/-- A machine whose host has written the first `n` bytes of the grid, word `i` being `f i`. -/
def gridUpTo (f : Nat → Word) (n : Nat) : State := { ready with mem := gridCells f 0 n }

theorem gridUpTo_read (f : Nat → Word) {n i k : Nat} (hk : k < 4) (hi : 4 * i + k < n) :
    Memory.read (gridUpTo f n).mem (4 * i + k) = some (byteOf (f i) k) := by
  show Memory.read (gridCells f 0 n) (4 * i + k) = _
  rw [read_gridCells, if_pos (by omega), show (4 * i + k) / 4 = i by omega, show (4 * i + k) % 4 = k by omega]

theorem gridUpTo_word? (f : Nat → Word) {n i : Nat} (hi : 4 * i + 4 ≤ n) :
    Memory.word? (gridUpTo f n).mem (4 * i) = some (f i) := by
  have h0 := gridUpTo_read f (n := n) (i := i) (k := 0) (by omega) (by omega)
  rw [Nat.add_zero] at h0
  unfold Memory.word?
  rw [h0, gridUpTo_read f (by omega) (by omega), gridUpTo_read f (by omega) (by omega),
    gridUpTo_read f (by omega) (by omega)]
  exact congrArg some (wordOf_byteOf (f i))

/-- A machine whose host has written the whole grid. -/
def grid (f : Nat → Word) : State := gridUpTo f 0x10000

theorem grid_word? (f : Nat → Word) {i : Nat} (hi : i < 16384) : Memory.word? (grid f).mem (4 * i) = some (f i) :=
  gridUpTo_word? f (by omega)

theorem grid_written (f : Nat → Word) {i : Nat} (hi : i < 16384) : (grid f).written i = true := by
  unfold State.written
  rw [grid_word? f hi]
  rfl

theorem grid_pixmem (f : Nat → Word) {i : Nat} (hi : i < 16384) : (grid f).pixmem i = f i := by
  unfold State.pixmem
  rw [grid_word? f hi]
  rfl

theorem grid_tileWritten (f : Nat → Word) {t : Nat} (ht : t < 256) : (grid f).TileWritten t :=
  fun _ hp => grid_written f (tilePixel_lt ht hp)

theorem grid_loaded (f : Nat → Word) : (grid f).Loaded := fun _ hi => grid_written f hi

theorem grid_tile (f : Nat → Word) {t : Nat} (ht : t < 256) :
    (grid f).tile t = Vector.ofFn fun p : Fin 64 => f (tilePixel t p) := by
  rw [Tile.ext_pixel]
  intro p hp
  rw [State.tile_pixel _ _ hp, grid_pixmem f (tilePixel_lt ht hp), Tile.pixel_ofFn _ hp]

/-- A grid of colours is valid everywhere. -/
theorem grid_tileValid {f : Nat → Word} (hf : ∀ i, ready.IsColour (f i)) {t : Nat} (ht : t < 256) :
    (grid f).TileValid t :=
  fun p hp => by
    rw [grid_pixmem f (tilePixel_lt ht hp)]
    exact hf _

/-- PIX_BAD is no colour. -/
theorem bad_isNoColour : ¬ ready.IsColour 6 := by
  rintro ⟨c, hc⟩
  revert hc
  cases c <;> decide

/-- A grey grid but for the pixel `p` of tile `t`. -/
def spot (t p : Nat) (v : Word) : Nat → Word := fun i => if i = tilePixel t p then v else 0

/-- A grey grid. -/
def grey : Nat → Word := fun _ => 0

theorem grey_isColour (i : Nat) : ready.IsColour (grey i) := ⟨.grey, rfl⟩

theorem spot_pink_isColour (t p i : Nat) : ready.IsColour (spot t p 5 i) := by
  unfold spot
  split
  exacts [⟨.pink, rfl⟩, ⟨.grey, rfl⟩]

/-- In a grid with one bad pixel, that pixel is the first bad one of its tile. -/
theorem spot_bad_firstBad {t p : Nat} (ht : t < 256) (hp : p < 64) : (grid (spot t p 6)).FirstBad t p := by
  refine ⟨hp, ?_, fun q hq => ?_⟩
  · rw [grid_pixmem _ (tilePixel_lt ht hp)]
    unfold spot
    rw [if_pos rfl]
    exact bad_isNoColour
  · rw [grid_pixmem _ (tilePixel_lt ht (by omega))]
    unfold spot
    rw [if_neg (by unfold tilePixel; omega)]
    exact ⟨.grey, rfl⟩

/-- Every other tile of that grid is valid. -/
theorem spot_bad_otherValid {t u p : Nat} (ht : t < 256) (hu : u < 256) (hp : p < 64) (h : u ≠ t) :
    (grid (spot t p 6)).TileValid u := fun q hq => by
  rw [grid_pixmem _ (tilePixel_lt hu hq)]
  unfold spot
  rw [if_neg (by unfold tilePixel; omega)]
  exact ⟨.grey, rfl⟩

/-- A grey grid but for its last word, which is pixel 63 of tile 255 and which the host has not written. -/
def almostLoaded : State := gridUpTo grey 0xFFFC

theorem almostLoaded_tile {t : Nat} (ht : t < 255) : almostLoaded.TileWritten t ∧ almostLoaded.TileValid t := by
  have hg (p : Nat) (hp : p < 64) : Memory.word? almostLoaded.mem (4 * tilePixel t p) = some 0 :=
    gridUpTo_word? grey (by unfold tilePixel; omega)
  refine ⟨fun p hp => ?_, fun p hp => ?_⟩
  · unfold State.written
    rw [hg p hp]
    rfl
  · unfold State.pixmem
    rw [hg p hp]
    exact ⟨.grey, rfl⟩

theorem almostLoaded_unwritten : ¬ almostLoaded.TileWritten 255 := fun h => by
  have hw := h 63 (by decide)
  have hr : Memory.read almostLoaded.mem (4 * tilePixel 255 63) = none := by
    show Memory.read (gridCells grey 0 0xFFFC) _ = none
    rw [read_gridCells, if_neg (by decide)]
    decide
  unfold State.written Memory.word? at hw
  rw [hr] at hw
  exact Bool.noConfusion hw

theorem exec_of_checks {i : Instr} {s : State} (h : checkOf i s = none) : exec i s = .next (effectOf i s) := by
  rw [exec_eq_guarded, h]
  rfl

theorem exec_of_error {i : Instr} {s : State} {r : ErrRecord} (h : checkOf i s = some (.error r)) :
    exec i s = .next (s.enterError r) := by
  rw [exec_eq_guarded, h]
  rfl

theorem grid_requireDim (f : Nat → Word) : (grid f).requireDim = none := (State.requireDim_eq_none _).mpr rfl

theorem grid_validate (f : Nat → Word) (t : BitVec 8) :
    exec (.validate t) (grid f) =
      .next ((grid f).finish (boolResult (validTile (grid f).colours ((grid f).tile t.toNat)))) :=
  exec_of_checks (i := .validate t) <| Option.or_eq_none_iff.mpr
    ⟨grid_requireDim f, (State.requireWritten_eq_none _ _).mpr (grid_tileWritten f t.isLt)⟩

theorem grid_requireValid {f : Nat → Word} (hf : ∀ i, ready.IsColour (f i)) {t : Nat} (ht : t < 256) :
    (grid f).requireValid t = none :=
  (State.requireValid_eq_none _ t).mpr ⟨grid_tileWritten f ht, grid_tileValid hf ht⟩

theorem grid_run {f : Nat → Word} (hf : ∀ i, ready.IsColour (f i)) :
    exec .run (grid f) = .next (effectOf .run (grid f)) :=
  exec_of_checks <| Option.or_eq_none_iff.mpr ⟨grid_requireDim f, (State.requireAllValid_eq_none _ _).mpr fun _ ht =>
    ⟨grid_tileWritten f (List.mem_range.mp ht), grid_tileValid hf (List.mem_range.mp ht)⟩⟩

/-! ### Each command (values of 95_test_vectors.md) -/

/-- V6.4. -/
theorem test_nop_keeps_done_and_result :
    observed (step (State.withFetchWord { ready with engine := .done, result := 5 } 32 0)) = some (2, 5, 0) := by decide

/-- V6.2: NOP while ERROR is dropped. -/
theorem test_nop_is_dropped_in_error : observed (step (moving .error (.write 0x10000 0))) = some (7, 0, 0) := by decide

/-- V6.5: the error of the dimension check comes first. -/
theorem test_run_dimension : observed (exec .run { ready with gridDim := 0, result := 5 }) = some (3, 5, 1) := by decide

/-- P1: one block bit of an all-grey image after RUN. -/
theorem test_run_grey_is_unmarked :
    after (exec .run (grid grey)) (fun t => t.blockPalette 63) = some false := by
  have h : (grid grey).pipeline.blockPalette 63 = false := by
    rw [State.blockPalette_pipeline _ (by decide), ← Bool.not_eq_true, State.classifyTiles_iff]
    rintro ⟨t, ht, p, hp, h⟩
    rw [grid_pixmem _ (tilePixel_lt (blockTiles_lt (by decide) ht) hp)] at h
    rcases h with h | h <;> cases h
  rw [grid_run grey_isColour]
  rw [after_next, effectOf, State.blockPalette_finish, h]

/-- V6.2: CLEAR after an error, with DROPPED set. -/
theorem test_clear_returns_from_error :
    observed (exec .clear { ready with engine := .busy, dropped := true, result := 5, err := ⟨.unknownColor, 0, 4, 63⟩ })
      = some (0, 0, 0) := by decide

/-- CLEAR zeroes NT, AT, PT and BP. -/
theorem test_clear_zeroes_outputs :
    after (exec .clear { ready with mem := [(0x10103, 7), (0x1020F, 1), (0x11FFF, 9)], bp := 3 })
      (fun t => (t.mem, t.bp)) = some ([], 0) := by decide

/-- V1.2. -/
theorem test_chkdim : observed (exec .chkdim ready) = some (2, 0, 0) := by decide

/-- V1.2: W = 128, H = 127. -/
theorem test_chkdim_height : observed (exec .chkdim { ready with gridDim := 0x007F0080 }) = some (3, 0, 1) := by decide

/-- V1.5: one bad pixel, the last. -/
theorem test_validate_bad_pixel : observed (exec (.validate 4) (grid (spot 4 63 6))) = some (2, 0, 0) := by
  rw [grid_validate, grid_tile _ (by decide)]
  decide +kernel

/-- V1.5: "validity reads only the tile's own pixels". -/
theorem test_validate_neighbour : observed (exec (.validate 3) (grid (spot 4 63 6))) = some (2, 1, 0) := by
  rw [grid_validate, grid_tile _ (by decide)]
  decide +kernel

/-- V2.4. -/
theorem test_register_bad_pixel : observed (exec (.register 77) (grid (spot 77 42 6))) = some (3, 0, 0x002A4D02) := by
  have h : checkOf (.register 77) (grid (spot 77 42 6)) = some (.error ⟨.unknownColor, 0, 77, 42⟩) := by
    rw [checkOf, grid_requireDim, show (77 : BitVec 8).toNat = 77 from rfl,
      State.requireValid_of_firstBad (grid_tileWritten _ (by decide)) (spot_bad_firstBad (by decide) (by decide))]
    rfl
  rw [exec_of_error h]
  decide +kernel

/-- V2.1, row 1: a new tile after CLEAR. -/
theorem test_register_new :
    after (exec (.register 0) (grid grey)) (fun t => (t.result, t.regCount, t.nt 0)) = some (0x100, 1, 0) := by
  have hn : (grid grey).idOf 0 = (true, 0) := State.idOf_new (List.not_mem_nil)
  have hd : checkOf (.register 0) (grid grey) = none := by
    rw [checkOf, grid_requireDim, grid_requireValid grey_isColour (by decide)]
    exact State.requireRoom_eq_none.mpr (fun h => absurd h.2 (by decide))
  rw [exec_of_checks hd]
  have he : (effectOf (.register 0) (grid grey)).result = 0x100 := by
    rw [effectOf, State.finish_result, show (0 : BitVec 8).toNat = 0 from rfl, hn]
    decide
  have hc : (effectOf (.register 0) (grid grey)).regCount = 1 := by
    rw [effectOf, State.regCount_finish, State.regCount, State.registerTile_regTile, show (0 : BitVec 8).toNat = 0 from rfl, hn]
    rfl
  have ht : (effectOf (.register 0) (grid grey)).nt 0 = 0 := by
    rw [effectOf, State.nt_finish, show (0 : BitVec 8).toNat = 0 from rfl, State.nt_registerTile, if_pos rfl, hn]
    rfl
  rw [after_next, he, hc, ht]

/-- V3.2. -/
theorem test_encode :
    after (exec (.encode 0) { ready with regTile := [designTile] })
      (fun t => (t.pt 0, t.pt 8, t.pt 7, t.pt 15, t.result)) = some (0x55, 0x3C, 0, 0, 0) := by decide

/-- V3.2: an ID that is not registered. -/
theorem test_encode_unregistered :
    observed (exec (.encode 3) { ready with regTile := [designTile] }) = some (3, 0, 0x00000305) := by decide

/-- V4.6: the operand comes before the dimensions. -/
theorem test_classify_64 : observed (exec (.classify 64) { ready with gridDim := 0 }) = some (3, 0, 0x00004005) := by
  decide

/-- V4.2: one pink pixel in `tile(17)[9]`. -/
theorem test_classify_pink :
    after (exec (.classify 0) (grid (spot 17 9 5))) (fun t => (t.blockPalette 0, t.result)) = some (true, 1) := by
  have hd : checkOf (.classify 0) (grid (spot 17 9 5)) = none := by
    rw [checkOf, grid_requireDim, (State.requireAllValid_eq_none _ _).mpr fun t ht =>
      ⟨grid_tileWritten _ (blockTiles_lt (by decide) ht),
        grid_tileValid (spot_pink_isColour 17 9) (blockTiles_lt (by decide) ht)⟩]
    rfl
  have hm : (grid (spot 17 9 5)).classifyTiles (blockTiles 0) = true := by
    rw [State.classifyTiles_iff]
    refine ⟨17, by decide, 9, by decide, .inr ?_⟩
    rw [grid_pixmem _ (by decide)]
    rfl
  have hb : ((grid (spot 17 9 5)).classifyBlock 0).blockPalette 0 = true := by
    rw [State.blockPalette_classifyBlock, if_pos (by decide), hm]
  rw [exec_of_checks hd]
  rw [after_next, effectOf, State.blockPalette_finish, State.finish_result, show (0 : BitVec 8).toNat = 0 from rfl, hb]
  rfl

/-- V5.3. -/
theorem test_packattr :
    after (exec (.packattr 0) { ready with bp := 0x201 }) (fun t => (t.attr 0, t.result)) = some (0x41, 0x41) := by decide

/-- V5.3: `BP[52]` is the top-left block of super-block 14. -/
theorem test_packattr_14 :
    after (exec (.packattr 14) { ready with bp := 1 <<< 52 }) (fun t => (t.attr 14, t.attr 13)) = some (1, 0) := by decide

/-- V3.4: 1,0,1,0,1,0,1,0. -/
theorem test_pack8 :
    observed (exec .pack8 { ready with bgLen := 8, bgElem := #v[0x00010001, 0x00010001, 5, 0] }) = some (2, 0xAA, 0) := by
  decide

/-- V3.4: 0,1,1,1,0,0,0,2. -/
theorem test_pack8_bad_element :
    observed (exec .pack8 { ready with bgLen := 8, bgElem := #v[0x01010100, 0x02000000, 0, 0] }) =
      some (3, 0, 0x00070213) := by decide

/-! ### Witnesses: states and operands that meet the hypotheses of the obligations -/

theorem witness_DecodeOfEncode :
    (Instr.classify 63).wf = true ∧ (Instr.packattr 15).wf = true ∧ (Instr.encode 255).wf = true := by decide

theorem witness_EncodeOfDecode : decode 0x00003F07 = .command (.classify 63) := by decide

theorem witness_IllegalWordsEndWithIllegalCommand :
    (running 0x0000000A).completionDue = true ∧ (running 0x0000000A).inflight = 0x0000000A ∧
      decode 0x0000000A = .illegalCommand := by decide

/-- The first operand out of range of each operation (ENCODE with no tile registered), and the largest of VALIDATE and
REGISTER. -/
theorem witness_OutOfRangeOperandsEndWithIllegalOperand :
    (running 0x00004007).completionDue = true ∧
    (running 0x00004007).inflight = 0x00000007 ||| ((64 : BitVec 8).setWidth 32 <<< 8) ∧
    (running 0x00001008).inflight = 0x00000008 ||| ((16 : BitVec 8).setWidth 32 <<< 8) ∧
    (running 0x00000006).inflight = 0x00000006 ||| ((0 : BitVec 8).setWidth 32 <<< 8) ∧
    (running 0x00000006).regCount ≤ (0 : BitVec 8).toNat ∧
    (running 0x0000FF04).inflight = 0x00000004 ||| ((255 : BitVec 8).setWidth 32 <<< 8) ∧
    (running 0x0000FF05).inflight = 0x00000005 ||| ((255 : BitVec 8).setWidth 32 <<< 8) := by decide

theorem witness_StepRunsTheDecodedCommand :
    ((running 9).completionDue = true ∧ decode (running 9).inflight = .command .pack8) ∧
    ((moving .done (.write 0x10003 0)).HostMoves (.write 0x10003 0) [] ∧ (0x10003 : Offset).toNat / 4 = 0x4000 ∧
      (moving .done (.write 0x10003 0)).engine ≠ .busy ∧ (moving .done (.write 0x10003 0)).engine ≠ .error) :=
  ⟨by decide, ⟨rfl, by decide⟩, by decide⟩

/-- Every clause: BUSY, ERROR with a word that is not CLEAR, NOP while DONE, and the three acceptances. -/
theorem witness_CommandAcceptance :
    (moving .busy (.write 0x10000 1)).HostMoves (.write 0x10000 1) [] ∧
    (moving .error (.write 0x10000 1)).HostMoves (.write 0x10000 1) [] ∧
    (moving .done (.write 0x10000 0)).HostMoves (.write 0x10000 0) [] ∧
    (moving .idle (.write 0x10000 1)).HostMoves (.write 0x10000 1) [] ∧
    (moving .done (.write 0x10000 1)).HostMoves (.write 0x10000 1) [] ∧
    (moving .error (.write 0x10000 2)).HostMoves (.write 0x10000 2) [] ∧
    (0x10000 : Offset).toNat / 4 = 0x4000 :=
  ⟨⟨rfl, by decide⟩, ⟨rfl, by decide⟩, ⟨rfl, by decide⟩, ⟨rfl, by decide⟩, ⟨rfl, by decide⟩, ⟨rfl, by decide⟩,
    by decide⟩

theorem witness_EveryAcceptedCommandEnds :
    (running 1).engine = .busy ∧ (running 1).inflight ≠ 0 := by decide

/-- The loop goes on (BUSY) and ends (DONE). -/
theorem witness_PollReadsStatusUntilNotBusy :
    (moving .busy .poll).HostMoves .poll [] ∧ (moving .done .poll).HostMoves .poll [] :=
  ⟨⟨rfl, by decide⟩, rfl, by decide⟩

/-- The first and last word of PIXMEM, CMD, GRID_DIM, BG_LEN and BG_ELEM3, while BUSY. -/
theorem witness_WritesWhileBusyAreDropped :
    (∀ off : Offset, (moving .busy (.write off 7)).HostMoves (.write off 7) [] ∧
      (moving .busy (.write off 7)).engine = .busy) ∧
    ([0x00000, 0x0FFFC, 0x10000, 0x10010, 0x10020, 0x10030].all fun off : Offset =>
      off.toNat / 4 ≤ 0x4000 ∨ off.toNat / 4 = 0x4004 ∨ (0x4008 ≤ off.toNat / 4 ∧ off.toNat / 4 ≤ 0x400C)) = true :=
  ⟨fun _ => ⟨⟨rfl, rfl⟩, rfl⟩, by decide⟩

/-- CMD with a word that is not CLEAR, the last word of PIXMEM, GRID_DIM, BG_LEN and the last BG_ELEM, while ERROR. -/
theorem witness_WritesWhileError :
    (∀ (off : Offset) (v : Word), (moving .error (.write off v)).HostMoves (.write off v) [] ∧
      (moving .error (.write off v)).engine = .error) ∧
    (0x10000 : Offset).toNat / 4 = 0x4000 ∧ (0x00000102 : Word) ≠ 2 ∧ (0x0FFFC : Offset).toNat / 4 < 0x4000 ∧
    (0x10010 : Offset).toNat / 4 = 0x4004 ∧ (0x10020 : Offset).toNat / 4 = 0x4008 ∧
    (0x10030 : Offset).toNat / 4 = 0x4009 + (3 : Fin 4).val :=
  ⟨fun _ _ => ⟨⟨rfl, rfl⟩, rfl⟩, by decide⟩

/-- The first and last byte of each reserved range. -/
theorem witness_ReservedOffsets :
    ([0x10034, 0x1003F, 0x10048, 0x100FF, 0x10210, 0x10FFF, 0x12000, 0x1FFFF].all fun off : Offset =>
      (0x10034 ≤ off.toNat ∧ off.toNat < 0x10040) ∨ (0x10048 ≤ off.toNat ∧ off.toNat < 0x10100) ∨
        (0x10210 ≤ off.toNat ∧ off.toNat < 0x11000) ∨ 0x12000 ≤ off.toNat) = true ∧
    (moving .busy (.write 0x10034 7)).HostMoves (.write 0x10034 7) [] ∧
    (moving .idle (.read 0x1FFFF)).HostMoves (.read 0x1FFFF) [] :=
  ⟨by decide, ⟨rfl, by decide⟩, rfl, by decide⟩

/-- STATUS, the first and last word of NT, AT and PT (RO), CMD, and the five RW registers. -/
theorem witness_ReadOnlyWriteOnlyAndReadWriteAccess :
    ([0x10004, 0x10044, 0x10100, 0x1020C, 0x11000, 0x11FFC].all fun off : Offset =>
      off.toNat / 4 ∈ [0x4001, 0x4002, 0x4003, 0x4005, 0x4006, 0x4007, 0x4010, 0x4011] ∨
        (0x4040 ≤ off.toNat / 4 ∧ off.toNat / 4 < 0x4084) ∨ (0x4400 ≤ off.toNat / 4 ∧ off.toNat / 4 < 0x4800)) = true ∧
    (0x10000 : Offset).toNat / 4 = 0x4000 ∧
    ([0x10010, 0x10024, 0x10030].all fun off : Offset =>
      off.toNat / 4 = 0x4004 ∨ (0x4009 ≤ off.toNat / 4 ∧ off.toNat / 4 ≤ 0x400C)) = true ∧
    (0x10020 : Offset).toNat / 4 = 0x4008 ∧
    (∀ (off : Offset) (v : Word), (moving .idle (.write off v)).HostMoves (.write off v) [] ∧
      (moving .idle (.write off v)).engine ≠ .busy) :=
  ⟨by decide, by decide, by decide, by decide, fun _ _ => ⟨⟨rfl, rfl⟩, fun h => nomatch h⟩⟩

theorem witness_LowOffsetBitsAreIgnored :
    (0x10010 : Offset) &&& 0x1FFFC = 0x10013 &&& 0x1FFFC ∧ ready.completionDue = false := by decide

/-- The last byte of PIXMEM. -/
theorem witness_PixmemStore :
    (moving .error (.write 0x0FFFF 7)).HostMoves (.write 0x0FFFF 7) [] ∧
    (moving .error (.write 0x0FFFF 7)).engine ≠ .busy ∧ (0x0FFFF : Offset).toNat < 0x10000 :=
  ⟨⟨rfl, by decide⟩, by decide⟩

theorem witness_ByteArraysArePackedLittleEndian : ready.engine ≠ .busy := by decide

theorem witness_HostReadsHaveNoSideEffects :
    (moving .busy (.read 0x10008)).HostMoves (.read 0x10008) [] ∧
    (moving .done (.read 0x10008)).HostMoves (.read 0x10008) [] := ⟨⟨rfl, by decide⟩, rfl, by decide⟩

/-- STATUS, the last word of PIXMEM, GRID_DIM, BG_LEN, the last BG_ELEM, and the ends of the outputs' ranges. -/
theorem witness_ReadsWhileBusy :
    (running 1).engine = .busy ∧ (0x10004 : Offset).toNat / 4 = 0x4001 ∧ (0x0FFFC : Offset).toNat / 4 < 0x4000 ∧
    (0x10010 : Offset).toNat / 4 = 0x4004 ∧ (0x10020 : Offset).toNat / 4 = 0x4008 ∧
    (0x10030 : Offset).toNat / 4 = 0x4009 + (3 : Fin 4).val ∧
    ([0x10008, 0x10044, 0x10100, 0x1020C, 0x11000, 0x11FFC].all fun off : Offset =>
      off.toNat / 4 ∈ [0x4002, 0x4003, 0x4005, 0x4006, 0x4007, 0x4010, 0x4011] ∨
        (0x4040 ≤ off.toNat / 4 ∧ off.toNat / 4 < 0x4084) ∨ (0x4400 ≤ off.toNat / 4 ∧ off.toNat / 4 < 0x4800)) = true ∧
    (moving .busy (.read 0x10008)).HostMoves (.read 0x10008) [] :=
  ⟨by decide, by decide, by decide, by decide, by decide, by decide, by decide, rfl, by decide⟩

theorem witness_StatusAndErrorWords :
    (moving .error .poll).engine ≠ .busy ∧ (moving .idle .poll).engine ≠ .busy := by decide

/-- A full registry reads 256. -/
theorem witness_ViewsOfRegistryResultAndPalettes :
    ({ ready with regTile := List.replicate 256 designTile } : State).engine ≠ .busy ∧
    ({ ready with regTile := List.replicate 256 designTile } : State).regCount ≤ 256 :=
  ⟨by decide, Nat.le_of_eq (List.length_replicate)⟩

theorem witness_HardwareReset : (moving .busy .reset).HostMoves .reset [] := ⟨rfl, by decide⟩

/-- The last pixel of the last tile is the last word of PIXMEM (V1.1). -/
theorem witness_TileExtraction : 63 < 64 ∧ 255 < 256 ∧ tilePixel 255 63 = 16383 ∧ 16383 < 16384 := by decide

theorem witness_ChkdimChecksTheDimensions : ready.dimensionsOk ∧ ¬ State.reset.dimensionsOk := ⟨rfl, by decide⟩

/-- Tile 255 of a grey grid is valid, tile 4 of a grid with one bad pixel is not, and nothing of PIXMEM is written in
`ready`. -/
theorem witness_ValidateAnswersValidity :
    ((grid grey).dimensionsOk ∧ (grid grey).TileWritten (255 : BitVec 8).toNat ∧
      (grid grey).TileValid (255 : BitVec 8).toNat) ∧
    ((grid (spot 4 63 6)).TileWritten (4 : BitVec 8).toNat ∧ ¬ (grid (spot 4 63 6)).TileValid (4 : BitVec 8).toNat) ∧
    ¬ State.reset.dimensionsOk ∧ (ready.dimensionsOk ∧ ¬ ready.TileWritten (0 : BitVec 8).toNat) :=
  ⟨⟨rfl, grid_tileWritten _ (by decide), grid_tileValid grey_isColour (by decide)⟩,
    ⟨grid_tileWritten _ (by decide),
      fun h => (spot_bad_firstBad (t := 4) (p := 63) (by decide) (by decide)).2.1 (h 63 (by decide))⟩,
    by decide, rfl, fun h => absurd (h 0 (by decide)) (by decide)⟩

/-- Two grids that differ in tile 4 only, for tile 3. -/
theorem witness_ValidityReadsOnlyItsTile :
    (grid grey).dimensionsOk ∧ (grid (spot 4 63 6)).dimensionsOk ∧
    (grid grey).colours = (grid (spot 4 63 6)).colours ∧
    ∀ p < 64, (grid grey).written (tilePixel (3 : BitVec 8).toNat p) = true ∧
      (grid (spot 4 63 6)).written (tilePixel (3 : BitVec 8).toNat p) = true ∧
      (grid grey).pixmem (tilePixel (3 : BitVec 8).toNat p) =
        (grid (spot 4 63 6)).pixmem (tilePixel (3 : BitVec 8).toNat p) := by
  refine ⟨rfl, rfl, rfl, fun p hp => ?_⟩
  have hl : tilePixel (3 : BitVec 8).toNat p < 16384 := tilePixel_lt (by decide) hp
  refine ⟨grid_written _ hl, grid_written _ hl, ?_⟩
  rw [grid_pixmem _ hl, grid_pixmem _ hl]
  unfold grey spot
  rw [if_neg]
  show ¬ tilePixel 3 p = tilePixel 4 63
  unfold tilePixel
  omega

theorem greyTile_ne_designTile : (grid grey).tile 0 ≠ designTile := by
  rw [grid_tile grey (by decide)]
  decide +kernel

/-- Nothing written, a bad tile, and a grey grid whose tile is registered as ID 1, is new to 255 tiles, or to 256. -/
theorem witness_RegisterLooksUpOrInserts :
    ¬ State.reset.dimensionsOk ∧ (ready.dimensionsOk ∧ ¬ ready.TileWritten (0 : BitVec 8).toNat) ∧
    ((grid (spot 77 42 6)).dimensionsOk ∧ (grid (spot 77 42 6)).TileWritten (77 : BitVec 8).toNat ∧
      (grid (spot 77 42 6)).FirstBad (77 : BitVec 8).toNat 42) ∧
    ((grid grey).dimensionsOk ∧ (grid grey).TileWritten (0 : BitVec 8).toNat ∧
      (grid grey).TileValid (0 : BitVec 8).toNat) ∧
    (([designTile, (grid grey).tile 0] : List Tile)[1]? = some ((grid grey).tile 0) ∧
      ∀ j < 1, ([designTile, (grid grey).tile 0] : List Tile)[j]? ≠ some ((grid grey).tile 0)) ∧
    ((grid grey).tile 0 ∉ List.replicate 255 designTile ∧ (List.replicate 255 designTile).length < 256) ∧
    ((grid grey).tile 0 ∉ List.replicate 256 designTile ∧ 256 ≤ (List.replicate 256 designTile).length) := by
  have hn (n : Nat) : (grid grey).tile 0 ∉ List.replicate n designTile := fun h =>
    greyTile_ne_designTile (List.eq_of_mem_replicate h)
  refine ⟨by decide, ⟨rfl, fun h => absurd (h 0 (by decide)) (by decide)⟩,
    ⟨rfl, grid_tileWritten _ (by decide), spot_bad_firstBad (by decide) (by decide)⟩,
    ⟨rfl, grid_tileWritten _ (by decide), grid_tileValid grey_isColour (by decide)⟩, ⟨rfl, fun j hj => ?_⟩,
    ⟨hn _, by rw [List.length_replicate]; decide⟩, hn _, by rw [List.length_replicate]⟩
  obtain rfl : j = 0 := by omega
  exact fun h => greyTile_ne_designTile (Option.some.inj h).symm

/-- The premises about the grid and the registry hold together: the registry is no part of the grid. -/
theorem witness_RegisterLooksUpOrInserts_together (r : List Tile) :
    ({ grid grey with regTile := r } : State).dimensionsOk ∧
    ({ grid grey with regTile := r } : State).TileWritten (0 : BitVec 8).toNat ∧
    ({ grid grey with regTile := r } : State).TileValid (0 : BitVec 8).toNat ∧
    ({ grid grey with regTile := r } : State).tile 0 = (grid grey).tile 0 :=
  ⟨rfl, grid_tileWritten grey (by decide), grid_tileValid grey_isColour (by decide), rfl⟩

theorem witness_RegistryStaysInjectiveDenseMonotonicValid :
    ready.RegistryOk ∧ exec .chkdim ready = .next (ready.finish 0) ∧ Instr.chkdim ≠ .clear ∧ Instr.chkdim ≠ .run :=
  ⟨⟨List.nodup_nil, Nat.zero_le _, fun _ h => nomatch h⟩, rfl, by decide, by decide⟩

theorem witness_EncodeWritesThePatternEntry :
    ({ ready with regTile := List.replicate 256 designTile } : State).regTile[(255 : BitVec 8).toNat]? = some designTile ∧
    ready.regCount ≤ (0 : BitVec 8).toNat :=
  ⟨by rw [List.getElem?_replicate, if_pos (by decide)], by decide⟩

/-- The pixel of V3.5 (row 0, column 3), the last pixel, and the other colours of the design tile's first row. -/
theorem witness_PatternEntryRoundTrip :
    designTile.pixel (8 * 0 + 3) = ready.colours.pix .dgreen ∧ designTile.pixel (8 * 7 + 7) = ready.colours.pix .grey ∧
    designTile.pixel (8 * 0 + 1) = ready.colours.pix .black ∧ designTile.pixel (8 * 0 + 2) = ready.colours.pix .lgreen ∧
    designTile.pixel (8 * 0 + 4) = ready.colours.pix .white ∧ designTile.pixel (8 * 0 + 5) = ready.colours.pix .pink := by
  decide +kernel

/-- Length 8 with bits, length 7, and the last element 2. -/
theorem witness_Pack8PacksTheBitGroup :
    (∀ i < 8, ({ ready with bgLen := 8, bgElem := #v[0x00010001, 0x00010001, 5, 0] } : State).bgElemAt i = 0 ∨
      ({ ready with bgLen := 8, bgElem := #v[0x00010001, 0x00010001, 5, 0] } : State).bgElemAt i = 1) ∧
    ({ ready with bgLen := 7 } : State).bgLen ≠ 8 ∧
    (({ ready with bgLen := 8, bgElem := #v[0, 0x02000000, 0, 0] } : State).bgElemAt 7 ≠ 0 ∧
      ({ ready with bgLen := 8, bgElem := #v[0, 0x02000000, 0, 0] } : State).bgElemAt 7 ≠ 1 ∧
      ∀ j < 7, ({ ready with bgLen := 8, bgElem := #v[0, 0x02000000, 0, 0] } : State).bgElemAt j = 0 ∨
        ({ ready with bgLen := 8, bgElem := #v[0, 0x02000000, 0, 0] } : State).bgElemAt j = 1) := by decide

/-- Block 64, an unwritten word and a bad pixel in the last tile of block 63, and a grey grid. -/
theorem witness_ClassifyFindsMarkerPixels :
    64 ≤ (64 : BitVec 8).toNat ∧ (63 : BitVec 8).toNat < 64 ∧ ¬ State.reset.dimensionsOk ∧
    (almostLoaded.dimensionsOk ∧ (∀ u ∈ [238, 239, 254], almostLoaded.TileWritten u ∧ almostLoaded.TileValid u) ∧
      ¬ almostLoaded.TileWritten 255) ∧
    ((grid (spot 255 63 6)).dimensionsOk ∧
      [32 * ((63 : BitVec 8).toNat / 8) + 2 * ((63 : BitVec 8).toNat % 8),
        32 * ((63 : BitVec 8).toNat / 8) + 2 * ((63 : BitVec 8).toNat % 8) + 1,
        32 * ((63 : BitVec 8).toNat / 8) + 2 * ((63 : BitVec 8).toNat % 8) + 16,
        32 * ((63 : BitVec 8).toNat / 8) + 2 * ((63 : BitVec 8).toNat % 8) + 17] = [238, 239, 254] ++ 255 :: [] ∧
      (∀ u ∈ [238, 239, 254], (grid (spot 255 63 6)).TileWritten u ∧ (grid (spot 255 63 6)).TileValid u) ∧
      (grid (spot 255 63 6)).TileWritten 255 ∧ (grid (spot 255 63 6)).FirstBad 255 63) ∧
    ((grid grey).dimensionsOk ∧ ∀ t < 256, (grid grey).TileWritten t ∧ (grid grey).TileValid t) := by
  have lt {u : Nat} (hu : u ∈ [238, 239, 254]) : u < 255 := by
    simp only [List.mem_cons, List.not_mem_nil, or_false] at hu
    omega
  refine ⟨by decide, by decide, by decide, ⟨rfl, fun u hu => almostLoaded_tile (lt hu), almostLoaded_unwritten⟩,
    ⟨rfl, by decide, fun u hu => ?_, grid_tileWritten _ (by decide), spot_bad_firstBad (by decide) (by decide)⟩, rfl,
    fun t ht => ⟨grid_tileWritten _ ht, grid_tileValid grey_isColour ht⟩⟩
  have h := lt hu
  exact ⟨grid_tileWritten _ (by omega), spot_bad_otherValid (by decide) (by omega) (by decide) (by omega)⟩

/-- The last tile is in the last block, the last block in the last super-block (V4.1, V5.1). -/
theorem witness_BlocksAndSuperBlocksPartition : 255 ∈ blockTiles 63 ∧ 63 ∈ superBlocks 15 := by decide

theorem witness_PackattrPacksFourBlocks : 16 ≤ (16 : BitVec 8).toNat ∧ (15 : BitVec 8).toNat < 16 := by decide

theorem witness_NopChangesNothing :
    (moving .idle (.write 0x10000 0)).HostMoves (.write 0x10000 0) [] ∧
    (moving .error (.write 0x10000 0)).HostMoves (.write 0x10000 0) [] ∧
    (moving .busy (.write 0x10000 0)).HostMoves (.write 0x10000 0) [] ∧ (0x10000 : Offset).toNat / 4 = 0x4000 :=
  ⟨⟨rfl, by decide⟩, ⟨rfl, by decide⟩, ⟨rfl, by decide⟩, by decide⟩

theorem witness_RunCompletesOnValidGrids :
    (grid grey).dimensionsOk ∧ ∀ t < 256, (grid grey).TileWritten t ∧ (grid grey).TileValid t :=
  ⟨rfl, fun _ ht => ⟨grid_tileWritten _ ht, grid_tileValid grey_isColour ht⟩⟩

/-- The last pixel of the last tile is the only unwritten one, or the only bad one. -/
theorem witness_RunErrorsComeBeforeAnyWrite :
    ¬ State.reset.dimensionsOk ∧
    (almostLoaded.dimensionsOk ∧ (∀ u < 255, almostLoaded.TileWritten u ∧ almostLoaded.TileValid u) ∧
      ¬ almostLoaded.TileWritten 255) ∧
    (grid (spot 255 63 6)).dimensionsOk ∧
    (∀ u < 255, (grid (spot 255 63 6)).TileWritten u ∧ (grid (spot 255 63 6)).TileValid u) ∧
    (grid (spot 255 63 6)).TileWritten 255 ∧ (grid (spot 255 63 6)).FirstBad 255 63 :=
  ⟨by decide, ⟨rfl, fun _ hu => almostLoaded_tile hu, almostLoaded_unwritten⟩, rfl, fun u hu => ⟨grid_tileWritten _ (by omega),
    spot_bad_otherValid (by decide) (by omega) (by decide) (by omega)⟩, grid_tileWritten _ (by decide),
    spot_bad_firstBad (by decide) (by decide)⟩

/-- A RUN that ends with DONE: RunNametable, RunPatternTable, RunPalettesAndAttributes and RunIsTheStageSequence. -/
theorem witness_RunNametable : ∃ s u, exec .run s = .next u ∧ u.engine = .done :=
  ⟨grid grey, _, grid_run grey_isColour, effectOf_engine .run (grid grey)⟩

theorem witness_RunPatternTable : ∃ s u, exec .run s = .next u ∧ u.engine = .done := witness_RunNametable

theorem witness_RunPalettesAndAttributes :
    ∃ s u, (exec .run s = .next u ∧ u.engine = .done) ∧ superBlocks 15 = [54, 55, 62, 63] :=
  ⟨_, _, ⟨grid_run grey_isColour, effectOf_engine .run (grid grey)⟩, by decide⟩

theorem witness_RunIsTheStageSequence : ∃ s u, exec .run s = .next u ∧ u.engine = .done := witness_RunNametable

/-- Two machines with the same grid and different artifacts. -/
theorem witness_RunDependsOnTheGridAlone :
    ∃ s s' : State, s.dimensionsOk ∧ s'.dimensionsOk ∧ s.colours = s'.colours ∧ s.bp ≠ s'.bp ∧
      (∀ i < 16384, s.written i = true ∧ s'.written i = true ∧ s.pixmem i = s'.pixmem i) ∧
      ∀ t < 256, s.TileValid t :=
  ⟨grid grey, { grid grey with bp := 1 }, rfl, rfl, rfl, (by decide : (0 : BitVec 64) ≠ 1),
    fun _ hi => ⟨grid_written _ hi, grid_written grey hi, rfl⟩, fun _ ht => grid_tileValid grey_isColour ht⟩

/-- CHKDIM from a reset machine's dimensions. -/
theorem witness_ErrorEntryIsPrecise :
    exec .chkdim State.reset = .next (State.reset.afterError .dimension 0 0 0) ∧ State.reset.engine ≠ .error ∧
    (State.reset.afterError .dimension 0 0 0).engine = .error := ⟨rfl, by decide, rfl⟩

/-- One command for each code. -/
theorem witness_ErrorCodesByCommand :
    after (exec .chkdim State.reset) (fun t => (t.engine, t.err.code)) = some (.error, .dimension) ∧
    after (exec .pack8 ready) (fun t => (t.engine, t.err.code)) = some (.error, .malformedBitGroup) ∧
    after (exec (.encode 0) ready) (fun t => (t.engine, t.err.code)) = some (.error, .illegalOperand) ∧
    (∃ t, exec (.register 77) (grid (spot 77 42 6)) = .next t ∧ t.engine = .error ∧ t.err.code = .unknownColor) ∧
    (∃ t, exec (.register 0) { grid grey with regTile := List.replicate 256 designTile } = .next t ∧
      t.engine = .error ∧ t.err.code = .registryFull) := by
  have hu : checkOf (.register 77) (grid (spot 77 42 6)) = some (.error ⟨.unknownColor, 0, 77, 42⟩) := by
    rw [checkOf, grid_requireDim, show (77 : BitVec 8).toNat = 77 from rfl,
      State.requireValid_of_firstBad (grid_tileWritten _ (by decide)) (spot_bad_firstBad (by decide) (by decide))]
    rfl
  have hf : checkOf (.register 0) { grid grey with regTile := List.replicate 256 designTile } =
      some (.error ⟨.registryFull, 0, 0, 0⟩) := by
    obtain ⟨hd, hw, hv, ht⟩ := witness_RegisterLooksUpOrInserts_together (List.replicate 256 designTile)
    rw [checkOf, (State.requireDim_eq_none _).mpr hd, (State.requireValid_eq_none _ _).mpr ⟨hw, hv⟩]
    have hn : ({ grid grey with regTile := List.replicate 256 designTile } : State).tile 0 ∉
        List.replicate 256 designTile := fun h => greyTile_ne_designTile (ht ▸ List.eq_of_mem_replicate h)
    rw [Option.none_or, Option.none_or, show (0 : BitVec 8).toNat = 0 from rfl]
    unfold State.requireRoom
    rw [State.idOf_new hn, if_pos ⟨rfl, by unfold State.regCount; rw [List.length_replicate]⟩]
    rfl
  exact ⟨by decide, by decide, by decide, ⟨_, exec_of_error hu, rfl, rfl⟩, ⟨_, exec_of_error hf, rfl, rfl⟩⟩

/-- The reset, the acceptance of CLEAR, and its completion. -/
theorem witness_OnlyClearOrResetLeavesError :
    ((moving .error .reset).engine = .error ∧ after (step (moving .error .reset)) State.engine = some .idle) ∧
    ((moving .error (.write 0x10000 2)).engine = .error ∧
      after (step (moving .error (.write 0x10000 2))) State.engine = some .busy) ∧
    ((running 2).completionDue = true ∧ (running 2).inflight = 2) := by decide

/-- A machine with nothing of PIXMEM written faults on the first word of tile 255. -/
theorem witness_FaultsAreUnwrittenInput :
    exec (.validate 255) ready = .fault (.unwrittenInput (tilePixel 255 0)) := by rfl

theorem witness_LoadedMachinesNeverStop : (grid grey).Loaded := grid_loaded grey

theorem witness_EngineNeverWritesInputs : ∃ u, exec .run (grid grey) = .next u := ⟨_, grid_run grey_isColour⟩

/-- A completion and an error of a command that writes no array. -/
theorem witness_FrameOfRegisterOnlyCommands :
    exec .chkdim ready = .next (ready.finish 0) ∧
    exec .pack8 ready = .next (ready.afterError .malformedBitGroup 0 0 0) ∧
    exec (.validate 0) State.reset = .next (State.reset.afterError .dimension 0 0 0) := ⟨rfl, rfl, rfl⟩

/-- The ends of the operand ranges: PACKATTR 15, ENCODE 255 with nothing registered, REGISTER 255 without dimensions. -/
theorem witness_FrameOfStoringCommands :
    (∃ t, exec (.packattr 15) ready = .next t ∧ t.engine = .done) ∧
    exec (.encode 255) ready = .next (ready.afterError .illegalOperand 0 255 0) ∧
    exec (.register 255) State.reset = .next (State.reset.afterError .dimension 0 0 0) :=
  ⟨⟨_, exec_of_checks rfl, effectOf_engine (.packattr 15) ready⟩, rfl, rfl⟩

/-- Block 63 of a grey grid, and block 64. -/
theorem witness_FrameOfClassify :
    (∃ t, exec (.classify 63) (grid grey) = .next t) ∧
    exec (.classify 64) ready = .next (ready.afterError .illegalOperand 0 64 0) := by
  refine ⟨⟨_, exec_of_checks ?_⟩, rfl⟩
  rw [checkOf, grid_requireDim, (State.requireAllValid_eq_none _ _).mpr fun t ht =>
    ⟨grid_tileWritten _ (blockTiles_lt (by decide) ht), grid_tileValid grey_isColour (blockTiles_lt (by decide) ht)⟩]
  rfl

/-- A loaded machine about to complete RUN. -/
def runningGrid : State := { grid grey with engine := .busy, inflight := 1 }

/-- It meets the invariant, and its step has a next state. -/
theorem witness_EveryStepKeepsTheInvariant :
    runningGrid.Inv ∧ step runningGrid = .next (effectOf .run runningGrid) := by
  have h : checkOf .run runningGrid = none := by
    rw [checkOf]
    exact Option.or_eq_none_iff.mpr ⟨(State.requireDim_eq_none _).mpr rfl, (State.requireAllValid_eq_none _ _).mpr fun t ht =>
      ⟨grid_tileWritten grey (List.mem_range.mp ht), grid_tileValid grey_isColour (List.mem_range.mp ht)⟩⟩
  refine ⟨⟨rising_gridCells grey 0 0x10000 (Nat.le_refl _), fun cell hc => ?_,
    ⟨List.nodup_nil, Nat.zero_le _, fun _ h => nomatch h⟩,
    ⟨fun h => h.elim nofun nofun, nofun, fun _ => ⟨(by decide : (1 : Word) ≠ encode .nop), fun _ => ⟨rfl, rfl⟩⟩⟩,
    fun k hk => ?_⟩, ?_⟩
  · obtain ⟨a, ha, rfl⟩ := List.mem_map.mp hc
    exact .inl (by simpa using ha)
  · have hr : Memory.read (gridCells grey 0 0x10000) (atBase + k) = some 0 := by
      rw [read_gridCells, if_neg (by simp only [atBase]; omega), Memory.unlisted_output (by simp only [atBase]; omega)]
    show ((Memory.read (gridCells grey 0 0x10000) (atBase + k)).getD 0) &&& 0xAA = 0
    rw [hr]
    rfl
  · have hd : decode runningGrid.inflight = .command .run := by decide
    rw [step_of_due (by decide), State.complete, hd]
    exact exec_of_checks h

theorem witness_ColourTableIsConstant : step ready = .next ready := by rfl

theorem witness_SetTilePixWritesTheTilePixel : 255 < 256 ∧ 63 < 64 ∧ tilePixel 255 63 = 16383 := by decide

end Sys2Proof.Tests
end

section
/-! The empty memory and the state after reset, read through the model's accessors (R42). -/

namespace Sys2Proof.Machine

/-! ### The empty memory -/

/-- NT, PT and AT are zero in the empty memory (R42). -/
@[simp] theorem Memory.byte_nil (a : Nat) : Memory.byte [] a = 0 := by
  unfold Memory.byte
  rw [Memory.read]
  by_cases h : a < 0x10000
  · rw [Memory.unlisted_pixmem h]; rfl
  · rw [Memory.unlisted_output (by omega)]; rfl

/-- No word of PIXMEM is written in the empty memory (R45). -/
theorem Memory.word?_nil_of_pixmem {a : Nat} (h : a < 0x10000) : Memory.word? [] a = none := by
  unfold Memory.word?
  simp only [Memory.read, Memory.unlisted_pixmem h]

/-! ### The state after reset -/

@[simp] theorem State.nt_reset (t : Nat) : State.reset.nt t = 0 := Memory.byte_nil _

@[simp] theorem State.pt_reset (i : Nat) : State.reset.pt i = 0 := Memory.byte_nil _

@[simp] theorem State.attr_reset (k : Nat) : State.reset.attr k = 0 := Memory.byte_nil _

@[simp] theorem State.blockPalette_reset (b : Nat) : State.reset.blockPalette b = false :=
  BitVec.getLsbD_zero

/-- Elements 0 to 15 lie in the four zero words of BG_ELEM; any further index reads the default, zero too. -/
@[simp] theorem State.bgElemAt_reset (i : Nat) : State.reset.bgElemAt i = 0 := by
  have hword : State.reset.bgElem.getD (i / 4) 0 = 0 := by
    by_cases h : i / 4 < 4 <;> simp [State.reset, Vector.getD, h]
  unfold State.bgElemAt byteOf
  rw [hword]
  exact BitVec.extractLsb'_zero

theorem State.written_reset {i : Nat} (h : i < 16384) : State.reset.written i = false := by
  have hword : Memory.word? State.reset.mem (4 * i) = none := Memory.word?_nil_of_pixmem (by omega)
  rw [State.written, hword]
  rfl

/-- Settles O22: the registers and REG_COUNT are fields of the reset state; the memories are read by the lemmas above. -/
theorem resetState : Obligations.ResetState :=
  ⟨rfl, rfl, rfl, rfl, rfl, rfl, rfl, rfl,
    fun i _ => State.bgElemAt_reset i,
    fun t _ => State.nt_reset t,
    fun i _ => State.pt_reset i,
    fun b _ => State.blockPalette_reset b,
    fun k _ => State.attr_reset k,
    fun _ hi => State.written_reset hi⟩

end Sys2Proof.Machine
end

section
/-! The host window: host writes dropped while BUSY or ERROR, host writes accepted, and the packing of byte arrays in
words (20_memory.md, R56, R60, R61). -/

namespace Sys2Proof.Machine

variable {s : State} {off : Offset} {v : Word} {rest : List HostMove}

/-! ### The places of the inputs -/

theorem portOf_gridDim (h : off.toNat / 4 = 0x4004) : portOf off = .gridDim := portOf_of_word h

theorem portOf_bgLen (h : off.toNat / 4 = 0x4008) : portOf off = .bgLen := portOf_of_word h

theorem portOf_bgElem {k : Fin 4} (h : off.toNat / 4 = 0x4009 + k.val) : portOf off = .bgElem k :=
  (portOf_of_word h).trans (portOfWord_bgElem k)

/-- The places that R60 protects while BUSY are CMD and the inputs of the engine. -/
theorem portOf_eq_cmd_or_isInput
    (h : off.toNat / 4 ≤ 0x4000 ∨ off.toNat / 4 = 0x4004 ∨ (0x4008 ≤ off.toNat / 4 ∧ off.toNat / 4 ≤ 0x400C)) :
    portOf off = .cmd ∨ (portOf off).isInput = true := by
  rcases h with hlow | hdim | ⟨hlo, hhi⟩
  · by_cases hcmd : off.toNat / 4 = 0x4000
    · exact .inl (portOf_cmd hcmd)
    · right
      rw [portOf_pixmem (by omega)]
      rfl
  · right
    rw [portOf_gridDim hdim]
    rfl
  · right
    by_cases hlen : off.toNat / 4 = 0x4008
    · rw [portOf_bgLen hlen]
      rfl
    · have hk : off.toNat / 4 - 0x4009 < 4 := by omega
      have hword : off.toNat / 4 = 0x4009 + (off.toNat / 4 - 0x4009) := by omega
      rw [portOf_bgElem (k := ⟨_, hk⟩) hword]
      rfl

/-- The place of the byte offset `n` of word `w` of the window. -/
theorem portOf_ofNat {n w : Nat} (hn : n = 4 * w) (hw : w < 0x8000) : portOf (BitVec.ofNat 17 n) = portOfWord w := by
  apply portOf_of_word
  rw [BitVec.toNat_ofNat]
  omega

/-! ### Dropped and accepted host writes -/

theorem State.submit_of_busy (hb : s.engine = .busy) (w : Word) : s.submit w = .next s.drop := if_pos hb

/-- While ERROR, only the word of CLEAR is accepted (R61). -/
theorem State.submit_of_error (he : s.engine = .error) {w : Word} (hw : w ≠ encode .clear) :
    s.submit w = .next s.drop := by
  unfold State.submit
  rw [if_neg (by simp [he]), if_pos ⟨he, hw⟩]

theorem State.hostStore_of_busy (hb : s.engine = .busy) {p : Port} (hp : p.isInput = true) (v : Word) :
    s.hostStore p v = s.drop := if_pos ⟨hb, hp⟩

theorem State.hostStore_of_not_busy (hb : s.engine ≠ .busy) (p : Port) (v : Word) :
    s.hostStore p v = s.writePort v p := if_neg fun h => hb h.1

theorem State.writePort_inbox (s : State) (v : Word) (p : Port) : (s.writePort v p).inbox = s.inbox := by
  cases p <;> rfl

theorem State.hostStore_inbox (s : State) (p : Port) (v : Word) : (s.hostStore p v).inbox = s.inbox := by
  unfold State.hostStore
  split
  · exact State.drop_inbox s
  · exact State.writePort_inbox s v p

/-- A host write always answers a next state, and the host's further moves stay as they are. -/
theorem State.hostWrite_next (s : State) (off : Offset) (v : Word) :
    ∃ t, s.hostWrite off v = .next t ∧ t.inbox = s.inbox := by
  rcases s.hostWrite_cases off v with ⟨-, hw⟩ | ⟨-, hw⟩
  · rcases s.submit_cases v with ⟨hs, -⟩ | ⟨hs, -⟩ | ⟨hs, -⟩
    · exact ⟨s.drop, hw.trans hs, s.drop_inbox⟩
    · exact ⟨s, hw.trans hs, rfl⟩
    · exact ⟨s.accept v, hw.trans hs, s.accept_inbox v⟩
  · exact ⟨_, hw, s.hostStore_inbox _ v⟩

/-- While BUSY, a host write to CMD or to an input is dropped (R60). -/
theorem step_of_write_busy (h : s.HostMoves (.write off v) rest) (hb : s.engine = .busy)
    (hp : portOf off = .cmd ∨ (portOf off).isInput = true) : step s = .next (s.takeMove rest).drop := by
  have hb' : (s.takeMove rest).engine = .busy := hb
  by_cases hc : portOf off = .cmd
  · rw [step_of_submit h hc, State.submit_of_busy hb']
  · rw [step_of_store h hc, State.hostStore_of_busy hb' (hp.resolve_left hc)]

/-- While ERROR, a write to CMD is dropped unless it is CLEAR (R61). -/
theorem step_of_cmd_write_error (h : s.HostMoves (.write off v) rest) (he : s.engine = .error)
    (hp : portOf off = .cmd) (hv : v ≠ encode .clear) : step s = .next (s.takeMove rest).drop :=
  (step_of_submit h hp).trans (State.submit_of_error (s := s.takeMove rest) he hv)

/-- A host write to a place other than CMD is accepted unless BUSY (R61). -/
theorem step_of_write_accepted {p : Port} (h : s.HostMoves (.write off v) rest) (hb : s.engine ≠ .busy)
    (hp : portOf off = p) (hc : p ≠ .cmd) : step s = .next ((s.takeMove rest).writePort v p) := by
  have hb' : (s.takeMove rest).engine ≠ .busy := hb
  subst hp
  rw [step_of_store h hc, State.hostStore_of_not_busy hb']

/-! ### PIXMEM after a store -/

theorem State.pixmem_writePort_self (s : State) (v : Word) (i : Nat) : (s.writePort v (.pixmem i)).pixmem i = v := by
  unfold State.pixmem State.writePort
  rw [Memory.word?_writeWord_self]
  rfl

theorem State.sameOutside_writePort_pixmem (s : State) (v : Word) (i : Nat) :
    s.SameOutside (s.writePort v (.pixmem i)) (4 * i) 4 := by
  intro a ha
  exact (Memory.read_writeRange s.mem (4 * i) 4 (byteOf v) a).trans (if_neg ha)

/-! ### Bytes of a word (R56) -/

theorem byteOf_or (x y : Word) (j : Nat) : byteOf (x ||| y) j = byteOf x j ||| byteOf y j :=
  BitVec.extractLsb'_or

/-- A byte shifted to place `k` of a word is byte `k` of it, and the other bytes are 0. -/
theorem byteOf_shiftLeft (b : Byte) {j k : Nat} (hj : j < 4) :
    byteOf (b.setWidth 32 <<< (8 * k)) j = if j = k then b else 0 := by
  apply BitVec.eq_of_getLsbD_eq
  intro i hi
  unfold byteOf
  rw [BitVec.getLsbD_extractLsb', BitVec.getLsbD_shiftLeft, BitVec.getLsbD_setWidth]
  rcases Nat.lt_trichotomy j k with h | h | h
  · have hlow : 8 * j + i < 8 * k := by omega
    simp [hlow, Nat.ne_of_lt h]
  · subst h
    have hin : 8 * j + i < 32 ∧ i < 32 := by omega
    simp [hi, hin]
  · have hhigh : 8 ≤ 8 * j + i - 8 * k := by omega
    simp [BitVec.getLsbD_of_ge b _ hhigh, Nat.ne_of_gt h]

/-- Byte `j` of a word made of four bytes is byte `j` of them. -/
theorem byteOf_wordOf (f : Nat → Byte) {j : Nat} (hj : j < 4) :
    byteOf (wordOf (f 0) (f 1) (f 2) (f 3)) j = f j := by
  have hshift (k : Nat) := byteOf_shiftLeft (f k) (k := k) hj
  have h0 := hshift 0
  rw [Nat.mul_zero, BitVec.shiftLeft_zero] at h0
  unfold wordOf
  rw [byteOf_or, byteOf_or, byteOf_or, h0, hshift 1, hshift 2, hshift 3]
  interval_cases j <;> simp

/-- R56: element `x` of a byte array mapped at `base` is byte `x mod 4` of the word at `base + 4 * (x div 4)`. -/
theorem Memory.byteOf_word (m : Memory) (base x : Nat) :
    byteOf (Memory.word m (base + 4 * (x / 4))) (x % 4) = Memory.byte m (base + x) := by
  have hj : x % 4 < 4 := Nat.mod_lt _ (by decide)
  have hbyte := byteOf_wordOf (fun j => Memory.byte m (base + 4 * (x / 4) + j)) hj
  have hx : base + 4 * (x / 4) + x % 4 = base + x := by omega
  rw [hx] at hbyte
  exact hbyte

/-- Outside BUSY, the word read at the byte offset `n` of word `w` of the window is the word of the place there. -/
theorem State.readValue_ofNat (hb : s.engine ≠ .busy) {n w : Nat} (hn : n = 4 * w) (hw : w < 0x8000) :
    s.readValue (BitVec.ofNat 17 n) = s.readPort (portOfWord w) := by
  unfold State.readValue
  rw [if_neg fun h => hb h.1, portOf_ofNat hn hw]

/-! ### The obligations -/

/-- Settles O11: the place written is CMD or an input, so the write is dropped. -/
theorem writesWhileBusyAreDropped : Obligations.WritesWhileBusyAreDropped := by
  intro s off v rest h hb hoff
  exact ⟨_, step_of_write_busy h hb (portOf_eq_cmd_or_isInput hoff), rfl, rfl⟩

/-- Settles O12: the step has one next state, which each clause computes for the place it writes. -/
theorem writesWhileError : Obligations.WritesWhileError := by
  intro s off v rest h he
  have hb : s.engine ≠ .busy := by simp [he]
  obtain ⟨t, hmove, hinbox⟩ := (s.takeMove rest).hostWrite_next off v
  have ht : step s = .next t := (step_of_host h).trans hmove
  have heq {u : State} (hu : step s = .next u) : t = u := Host.Outcome.next.inj (ht.symm.trans hu)
  have hstore {p : Port} (hp : portOf off = p) (hc : p ≠ .cmd) : t = (s.takeMove rest).writePort v p :=
    heq (step_of_write_accepted h hb hp hc)
  refine ⟨t, ht, hinbox, ?_, ?_, ?_, ?_, ?_⟩
  · intro ho hv
    rw [heq (step_of_cmd_write_error h he (portOf_cmd ho) hv)]
    rfl
  · intro ho
    rw [hstore (portOf_pixmem ho) Port.noConfusion]
    exact ⟨State.pixmem_writePort_self _ v _, rfl, State.sameOutside_writePort_pixmem (s.takeMove rest) v _⟩
  · intro ho
    rw [hstore (portOf_gridDim ho) Port.noConfusion]
    rfl
  · intro ho
    rw [hstore (portOf_bgLen ho) Port.noConfusion, BitVec.setWidth_eq_extractLsb' (by decide)]
    rfl
  · intro k ho
    rw [hstore (portOf_bgElem ho) Port.noConfusion]
    rfl

/-- Settles O17: each array has its own words in the address map, and a word holds its four elements in order. -/
theorem byteArraysArePackedLittleEndian : Obligations.ByteArraysArePackedLittleEndian := by
  intro s hb
  refine ⟨?_, ?_, ?_, ?_⟩
  · intro t ht
    rw [State.readValue_ofNat hb (w := 0x4040 + t / 4) (by omega) (by omega), portOfWord_nt (by omega)]
    exact Memory.byteOf_word s.mem ntBase t
  · intro k hk
    rw [State.readValue_ofNat hb (w := 0x4080 + k / 4) (by omega) (by omega), portOfWord_at (by omega)]
    exact Memory.byteOf_word s.mem atBase k
  · intro i hi
    rw [State.readValue_ofNat hb (w := 0x4400 + i / 4) (by omega) (by omega), portOfWord_pt (by omega)]
    exact Memory.byteOf_word s.mem ptBase i
  · intro i hi
    have hk : i / 4 < 4 := by omega
    rw [State.readValue_ofNat hb (w := 0x4009 + i / 4) (by omega) (by omega), portOfWord_bgElem ⟨i / 4, hk⟩]
    rfl

end Sys2Proof.Machine
end

section
/-! The fields of a command word, the words that decode to an error, and the completion of a word by what it decodes
to (30_encoding.md, R70, R73 to R75, R77). -/

namespace Sys2Proof

variable {w : Word}

/-! ### The fields of a word as numbers (R70) -/

theorem opField_toNat (w : Word) : (opField w).toNat = w.toNat % 16 := by
  simp [opField]

theorem rsv0Field_eq_zero : rsv0Field w = 0 ↔ w.toNat / 16 % 16 = 0 := by
  simp [rsv0Field, ← BitVec.toNat_inj, Nat.shiftRight_eq_div_pow]

theorem argField_eq_zero : argField w = 0 ↔ w.toNat / 256 % 256 = 0 := by
  simp [argField, ← BitVec.toNat_inj, Nat.shiftRight_eq_div_pow]

/-- RSV1 is the top half of the word, so it is the whole quotient. -/
theorem rsv1Field_eq_zero : rsv1Field w = 0 ↔ w.toNat / 65536 = 0 := by
  have hlt : w.toNat / 65536 < 65536 := by omega
  simp [rsv1Field, ← BitVec.toNat_inj, Nat.shiftRight_eq_div_pow, Nat.mod_eq_of_lt hlt]

/-! ### The fields of `OP | (a << 8)` (R73) -/

@[simp] theorem opField_commandWord (op : BitVec 4) (arg : BitVec 8) : opField (commandWord op arg) = op := by
  apply BitVec.eq_of_getLsbD_eq
  intro i hi
  have hlow : i < 8 := by omega
  have hin : i < 32 := by omega
  simp [opField, commandWord, hi, hlow, hin]

@[simp] theorem argField_commandWord (op : BitVec 4) (arg : BitVec 8) : argField (commandWord op arg) = arg := by
  apply BitVec.eq_of_getLsbD_eq
  intro i hi
  have hin : 8 + i < 32 := by omega
  simp [argField, commandWord, hi, hin, BitVec.getLsbD_of_ge op (8 + i) (by omega)]

@[simp] theorem rsv0Field_commandWord (op : BitVec 4) (arg : BitVec 8) : rsv0Field (commandWord op arg) = 0 :=
  (Laws.ReservedZero.commandWord_reserved op arg).1

@[simp] theorem rsv1Field_commandWord (op : BitVec 4) (arg : BitVec 8) : rsv1Field (commandWord op arg) = 0 :=
  (Laws.ReservedZero.commandWord_reserved op arg).2

/-! ### The decoder, by the class of the word (R77) -/

theorem decodeBare_eq_illegalCommand {arg : BitVec 8} {i : Instr} :
    decodeBare arg i = .illegalCommand ↔ arg ≠ 0 := by
  unfold decodeBare
  split <;> simp_all

theorem decode_of_reserved (h : rsv0Field w ≠ 0 ∨ rsv1Field w ≠ 0) : decode w = .illegalCommand := if_pos h

/-- With RSV0 and RSV1 0, a word is illegal by its OP, or by an ARG that its OP does not take. -/
theorem decode_eq_illegalCommand_of_reserved_zero (h : ¬ (rsv0Field w ≠ 0 ∨ rsv1Field w ≠ 0)) :
    decode w = .illegalCommand ↔
      10 ≤ (opField w).toNat ∨ (((opField w).toNat ≤ 3 ∨ (opField w).toNat = 9) ∧ argField w ≠ 0) := by
  unfold decode
  rw [if_neg h]
  split
  case h_1 hop | h_2 hop | h_3 hop | h_4 hop | h_10 hop => simp [hop, decodeBare_eq_illegalCommand]
  case h_5 hop | h_6 hop | h_7 hop => simp [hop]
  case h_8 hop | h_9 hop => split <;> simp [hop]
  case h_11 =>
    have hop : 10 ≤ (opField w).toNat := by
      simp only [imp_false] at * -- `omega` reads `¬ x = n`, not `x = n → False`
      omega
    simp [hop]

/-- R74: the illegal words, by their fields. -/
theorem decode_eq_illegalCommand :
    decode w = .illegalCommand ↔
      rsv0Field w ≠ 0 ∨ rsv1Field w ≠ 0 ∨ 10 ≤ (opField w).toNat ∨
      (((opField w).toNat ≤ 3 ∨ (opField w).toNat = 9) ∧ argField w ≠ 0) := by
  rw [← or_assoc]
  by_cases h : rsv0Field w ≠ 0 ∨ rsv1Field w ≠ 0
  · exact iff_of_true (decode_of_reserved h) (.inl h)
  · rw [decode_eq_illegalCommand_of_reserved_zero h, or_iff_right h]

/-! ### The words with an operand (R73, R75) -/

theorem decode_commandWord_validate (t : BitVec 8) : decode (commandWord 0x4 t) = .command (.validate t) := by
  simp [decode]

theorem decode_commandWord_register (t : BitVec 8) : decode (commandWord 0x5 t) = .command (.register t) := by
  simp [decode]

theorem decode_commandWord_encode (id : BitVec 8) : decode (commandWord 0x6 id) = .command (.encode id) := by
  simp [decode]

theorem decode_commandWord_classify_of_le {b : BitVec 8} (h : 64 ≤ b.toNat) :
    decode (commandWord 0x7 b) = .illegalOperand b := by
  simp [decode, h]

theorem decode_commandWord_packattr_of_le {k : BitVec 8} (h : 16 ≤ k.toNat) :
    decode (commandWord 0x8 k) = .illegalOperand k := by
  simp [decode, h]

end Sys2Proof

namespace Sys2Proof.Machine

variable {s : State}

/-! ### The completion of a word, by what it decodes to (R170, R206) -/

theorem step_of_command {i : Instr} (hdue : s.completionDue = true) (h : decode s.inflight = .command i) :
    step s = exec i s := by
  rw [step_of_due hdue, State.complete, h]

theorem step_of_illegalCommand (hdue : s.completionDue = true) (h : decode s.inflight = .illegalCommand) :
    step s = .next (s.afterError .illegalCommand 0 0 0) := by
  rw [step_of_due hdue, State.complete, h]
  rfl

theorem step_of_illegalOperand {a : BitVec 8} (hdue : s.completionDue = true)
    (h : decode s.inflight = .illegalOperand a) : step s = .next (s.afterError .illegalOperand 0 a 0) := by
  rw [step_of_due hdue, State.complete, h]
  rfl

/-- ENCODE of an ID that is not registered is error entry (R133); the decoder does not see REG_COUNT (R77). -/
theorem exec_encode_of_regCount_le {id : BitVec 8} (h : s.regCount ≤ id.toNat) :
    exec (.encode id) s = .next (s.afterError .illegalOperand 0 id 0) := by
  have hcheck : checkOf (.encode id) s = some (.error ⟨.illegalOperand, 0, id, 0⟩) :=
    requireBelow_eq_some.mpr ⟨h, rfl⟩
  rw [exec_eq_guarded, hcheck]
  rfl

/-! ### The obligations -/

/-- Settles O3: the fields of R74 as numbers, and the completion of an illegal word. -/
theorem illegalWordsEndWithIllegalCommand : Obligations.IllegalWordsEndWithIllegalCommand := by
  intro w
  constructor
  · simp only [decode_eq_illegalCommand, opField_toNat, ne_eq, rsv0Field_eq_zero, rsv1Field_eq_zero,
      argField_eq_zero]
  · intro s hdue hw h
    exact step_of_illegalCommand hdue (hw ▸ h)

/-- Settles O4: the decoder rejects the operands of CLASSIFY and PACKATTR, the command that of ENCODE. -/
theorem outOfRangeOperandsEndWithIllegalOperand : Obligations.OutOfRangeOperandsEndWithIllegalOperand := by
  intro s a hdue
  refine ⟨?_, ?_, ?_, ?_, ?_⟩
  · intro hw ha
    exact step_of_illegalOperand hdue (hw ▸ decode_commandWord_classify_of_le ha)
  · intro hw ha
    exact step_of_illegalOperand hdue (hw ▸ decode_commandWord_packattr_of_le ha)
  · intro hw ha
    have hdecode : decode s.inflight = .command (.encode a) := hw ▸ decode_commandWord_encode a
    exact (step_of_command hdue hdecode).trans (exec_encode_of_regCount_le ha)
  · intro hw
    exact step_of_command hdue (hw ▸ decode_commandWord_validate a)
  · intro hw
    exact step_of_command hdue (hw ▸ decode_commandWord_register a)

end Sys2Proof.Machine
end

section
/-! CHKDIM (40_extract_validate.md, R103, R106), from the two ways a command answers a next state. -/

namespace Sys2Proof.Machine

variable {i : Instr} {s : State}

/-! ### A command by the outcome of its checks -/

theorem exec_of_checkOf_none (h : checkOf i s = none) : exec i s = .next (effectOf i s) := by
  rw [exec_eq_guarded, h, guarded_none]

theorem exec_of_checkOf_error {code : ErrCode} {sub : BitVec 1} {a : BitVec 8} {b : BitVec 6}
    (h : checkOf i s = some (.error ⟨code, sub, a, b⟩)) : exec i s = .next (s.afterError code sub a b) := by
  rw [exec_eq_guarded, h, guarded_error, State.enterError, State.afterError]

/-! ### The dimension check (R103) -/

theorem State.requireDim_of_not_dimensionsOk (h : ¬ s.dimensionsOk) :
    s.requireDim = some (.error ⟨.dimension, 0, 0, 0⟩) := s.requireDim_eq_some.mpr ⟨h, rfl⟩

/-! ### The obligations -/

/-- Settles O25: the dimension check is the only check of CHKDIM, and its effect is to finish with RESULT 0. -/
theorem chkdimChecksTheDimensions : Obligations.ChkdimChecksTheDimensions := by
  intro s
  constructor
  · intro hdim
    have hpass : checkOf .chkdim s = none := s.requireDim_eq_none.mpr hdim
    exact exec_of_checkOf_none hpass
  · intro hdim
    have hstop : checkOf .chkdim s = some (.error ⟨.dimension, 0, 0, 0⟩) := State.requireDim_of_not_dimensionsOk hdim
    exact exec_of_checkOf_error hstop

end Sys2Proof.Machine
end

section
/-! What each command does to the registry (41_registry.md, R120 to R122): its tiles stay distinct, at most 256 and valid,
and every command but CLEAR and RUN only appends. -/

namespace Sys2Proof.Machine

variable {i : Instr} {s t : State}

/-! ### The tiles of the registry -/

/-- A valid tile of the grid is a tile of known colours (R104, R105). -/
theorem State.TileValid.knownTile {n : Nat} (h : s.TileValid n) : s.KnownTile (s.tile n) := by
  intro p hp
  rw [s.tile_pixel n hp]
  exact h p hp

/-- Which tiles are valid rests on the colour table alone (R102). -/
theorem State.KnownTile.of_colours_eq {T : Tile} (h : s.KnownTile T) (hc : t.colours = s.colours) : t.KnownTile T := by
  intro p hp
  rw [State.IsColour, hc]
  exact h p hp

/-- Every tile registered from an empty registry is a tile of the grid (R124). -/
theorem State.Registered.exists_tile {n : Nat} {T : Tile} (h : s.Registered t n) (hT : T ∈ t.regTile) :
    ∃ k < n, T = s.tile k := by
  obtain ⟨id, hid, rfl⟩ := List.getElem_of_mem hT
  obtain ⟨k, hk, hnt⟩ := h.used id hid
  have hname : t.regTile[id]? = some (s.tile k) := hnt ▸ h.names k hk
  exact ⟨k, hk, Option.some.inj ((List.getElem?_eq_getElem hid).symm.trans hname)⟩

/-! ### What keeps the registry as R122 says -/

theorem State.RegistryOk.of_regTile_eq (h : s.RegistryOk) (hr : t.regTile = s.regTile) (hc : t.colours = s.colours) :
    t.RegistryOk where
  injective := hr ▸ h.injective
  capacity := hr ▸ h.capacity
  valid T hT := (h.valid T (hr ▸ hT)).of_colours_eq hc

theorem State.registryOk_of_regTile_eq_nil (h : s.regTile = []) : s.RegistryOk where
  injective := h ▸ List.nodup_nil
  capacity := by simp [h]
  valid T hT := absurd (h ▸ hT) List.not_mem_nil

/-- A valid tile that is registered, or that there is room for, can be registered (R120, R205). -/
theorem State.RegistryOk.registerTile {n : Nat} (h : s.RegistryOk) (hvalid : s.TileValid n)
    (hroom : s.requireRoom n = none) : (s.registerTile n).RegistryOk := by
  rcases s.idOf_cases n with ⟨id, -, hid⟩ | ⟨-, hid⟩
  · exact h.of_regTile_eq (by rw [State.registerTile_regTile, hid]; rfl) (s.registerTile_colours n)
  · have happ : (s.registerTile n).regTile = s.regTile ++ [s.tile n] := by
      rw [State.registerTile_regTile, hid]
      rfl
    have hlt : s.regTile.length < 256 := by
      simpa [hid, State.regCount] using State.requireRoom_eq_none.mp hroom
    refine ⟨s.registerTile_nodup n h.injective, ?_, fun T hT => ?_⟩
    · rw [happ, List.length_append, List.length_singleton]
      exact hlt
    · have hknown : s.KnownTile T := by
        rcases List.mem_append.mp (happ ▸ hT) with hold | hnew
        · exact h.valid T hold
        · rw [List.mem_singleton.mp hnew]
          exact hvalid.knownTile
      exact hknown.of_colours_eq (s.registerTile_colours n)

/-- RUN on valid tiles, whatever was registered before (R173). -/
theorem State.pipeline_registryOk (hvalid : ∀ n < 256, s.TileValid n) : s.pipeline.RegistryOk := by
  have hreg : s.startRun.Registered s.startRun.registerAll 256 := State.registerAll_registered s.startRun_regTile
  refine ⟨?_, ?_, fun T hT => ?_⟩
  · rw [s.pipeline_regTile]
    exact hreg.nodup
  · rw [s.pipeline_regTile]
    exact hreg.count
  · rw [s.pipeline_regTile] at hT
    obtain ⟨k, hk, rfl⟩ := hreg.exists_tile hT
    rw [s.startRun_samePixels.tile hk]
    exact (hvalid k hk).knownTile.of_colours_eq s.pipeline_colours

/-! ### The commands -/

/-- The commands that can write the registry are CLEAR, RUN and REGISTER. -/
theorem effectOf_regTile_cases (i : Instr) (s : State) :
    i = .clear ∨ i = .run ∨ (∃ n, i = .register n) ∨ (effectOf i s).regTile = s.regTile := by
  cases i with
  | clear => exact .inl rfl
  | run => exact .inr (.inl rfl)
  | register n => exact .inr (.inr (.inl ⟨n, rfl⟩))
  | nop | chkdim | validate _ | pack8 => exact .inr (.inr (.inr rfl))
  | encode id => exact .inr (.inr (.inr ((State.finish_regTile _ _).trans (s.encodeTile_regTile id.toNat))))
  | classify b => exact .inr (.inr (.inr ((State.finish_regTile _ _).trans (s.classifyBlock_regTile b.toNat))))
  | packattr k => exact .inr (.inr (.inr ((State.finish_regTile _ _).trans (s.packSuper_regTile k.toNat))))

/-- A command that passes its checks keeps the registry as R122 says. -/
theorem effectOf_registryOk (h : s.RegistryOk) (hcheck : checkOf i s = none) :
    (effectOf i s).RegistryOk := by
  rcases effectOf_regTile_cases i s with rfl | rfl | ⟨n, rfl⟩ | hr
  · exact State.registryOk_of_regTile_eq_nil s.clearEngine_regTile
  · obtain ⟨-, hvalid⟩ := Option.or_eq_none_iff.mp hcheck
    have htiles : ∀ k < 256, s.TileValid k := fun k hk =>
      ((s.requireAllValid_eq_none _).mp hvalid k (List.mem_range.mpr hk)).2
    exact (State.pipeline_registryOk htiles).of_regTile_eq (State.finish_regTile _ _) (State.finish_colours _ _)
  · obtain ⟨hpass, hroom⟩ := Option.or_eq_none_iff.mp hcheck
    obtain ⟨-, hvalid⟩ := Option.or_eq_none_iff.mp hpass
    have htile : s.TileValid n.toNat := ((s.requireValid_eq_none _).mp hvalid).2
    exact (h.registerTile htile hroom).of_regTile_eq (State.finish_regTile _ _) (State.finish_colours _ _)
  · exact h.of_regTile_eq hr (effectOf_colours i s)

/-- A command but CLEAR and RUN only appends, so no ID is changed or withdrawn (R122). -/
theorem effectOf_regTile_append (hclear : i ≠ .clear) (hrun : i ≠ .run) :
    ∃ new, (effectOf i s).regTile = s.regTile ++ new := by
  rcases effectOf_regTile_cases i s with rfl | rfl | ⟨n, rfl⟩ | hr
  · exact absurd rfl hclear
  · exact absurd rfl hrun
  · obtain ⟨new, happ, -⟩ := s.registerTile_append n.toNat
    exact ⟨new, happ⟩
  · exact ⟨[], by rw [hr, List.append_nil]⟩

/-- Every command keeps the registry as R122 says: error entry leaves it alone (R206). -/
theorem exec_registryOk (h : s.RegistryOk) (hnext : exec i s = .next t) : t.RegistryOk := by
  rcases exec_next hnext with ⟨hcheck, rfl⟩ | ⟨r, -, rfl⟩
  · exact effectOf_registryOk h hcheck
  · exact h.of_regTile_eq (s.enterError_regTile r) (s.enterError_colours r)

/-! ### The obligations -/

/-- Settles O29: the registry stays as R122 says, and grows at its end alone; error entry appends nothing. -/
theorem registryStaysInjectiveDenseMonotonicValid : Obligations.RegistryStaysInjectiveDenseMonotonicValid := by
  intro i s t h hnext
  refine ⟨exec_registryOk h hnext, fun hclear hrun => ?_⟩
  rcases exec_next hnext with ⟨-, rfl⟩ | ⟨r, -, rfl⟩
  · exact effectOf_regTile_append hclear hrun
  · exact ⟨[], (List.append_nil _).symm⟩

end Sys2Proof.Machine
end

section
/-! Patterns (42_pattern.md): the pattern entry ENCODE writes (R132, R133), the bit group of PACK8 (R130, R134), and the
pattern table after RUN (R137). -/

namespace Sys2Proof.Machine

variable {s u : State}

/-! ### One pattern entry (R133) -/

/-- The tile that ENCODE and RUN encode for a registered ID is the registered one (R24). -/
theorem State.regTileAt_of_getElem? {id : Nat} {T : Tile} (h : s.regTile[id]? = some T) : s.regTileAt id = T := by
  rw [State.regTileAt, List.getD_eq_getElem?_getD, h, Option.getD_some]

theorem State.pt_encodeTile_entry {id k : Nat} {T : Tile} (h : s.regTile[id]? = some T) (hk : k < 16) :
    (s.encodeTile id).pt (16 * id + k) = patternByte s.colours T k := by
  rw [State.pt_encodeTile, if_pos (by omega), State.regTileAt_of_getElem? h, Nat.add_sub_cancel_left]

theorem State.sameOutside_encodeTile (s : State) (id : Nat) :
    s.SameOutside (s.encodeTile id) (ptBase + 16 * id) 16 := by
  intro a ha
  rw [State.encodeTile_mem, Memory.read_writeRange, if_neg ha]

/-- ENCODE of a registered ID passes its only check (R133). -/
theorem exec_encode_of_getElem? {id : BitVec 8} {T : Tile} (h : s.regTile[id.toNat]? = some T) :
    exec (.encode id) s = .next ((s.encodeTile id.toNat).finish (byteResult id)) := by
  obtain ⟨hlt, -⟩ := List.getElem?_eq_some_iff.mp h
  exact exec_of_checkOf_none (i := .encode id) (requireBelow_eq_none.mpr hlt)

/-! ### The check of a bit group (R130, R203) -/

theorem requireBits_of_bits {n : BitVec 8} {e : Nat → Byte} (hn : n = 8) (h : ∀ i < 8, e i = 0 ∨ e i = 1) :
    requireBits n e = none := by
  have hfind : (List.range 8).find? (fun i => e i ≠ 0 ∧ e i ≠ 1) = none := by
    rw [List.find?_range_eq_none]
    simpa [or_iff_not_imp_left] using h
  unfold requireBits
  rw [if_neg (fun hne => hne hn), hfind]

theorem requireBits_of_length_ne {n : BitVec 8} (e : Nat → Byte) (h : n ≠ 8) :
    requireBits n e = some (.error ⟨.malformedBitGroup, 0, n, 0⟩) := if_pos h

/-- Of the elements that are no bits, the one of lowest index is reported (R130). -/
theorem requireBits_of_first_bad {n : BitVec 8} {e : Nat → Byte} {i : Nat} (hn : n = 8) (hi : i < 8) (hz : e i ≠ 0)
    (ho : e i ≠ 1) (hbefore : ∀ j < i, e j = 0 ∨ e j = 1) :
    requireBits n e = some (.error ⟨.malformedBitGroup, 1, e i, BitVec.ofNat 6 i⟩) := by
  have hfind : (List.range 8).find? (fun i => e i ≠ 0 ∧ e i ≠ 1) = some i := by
    rw [List.find?_range_eq_some]
    exact ⟨decide_eq_true ⟨hz, ho⟩, List.mem_range.mpr hi, by simpa [or_iff_not_imp_left] using hbefore⟩
  unfold requireBits
  rw [if_neg (fun hne => hne hn), hfind]

/-! ### RUN that ends DONE (R173) -/

/-- Error entry does not end DONE, so a RUN that does is the pipeline. -/
theorem eq_finish_of_run_done (hnext : exec .run s = .next u) (hdone : u.engine = .done) :
    u = s.pipeline.finish (BitVec.ofNat 9 s.pipeline.regCount) := by
  rcases exec_next hnext with ⟨-, heffect⟩ | ⟨r, -, rfl⟩
  · exact heffect
  · rw [State.enterError_engine] at hdone
    cases hdone

/-- RUN registers one tile of the grid at a time, so at most 256 (R124). -/
theorem State.regCount_pipeline_le (s : State) : s.pipeline.regCount ≤ 256 := by
  unfold State.regCount
  rw [State.pipeline_regTile]
  exact (State.registerAll_registered s.startRun_regTile).count

/-- R137: the entry of each registered ID stands at 16 times the ID. -/
theorem State.pt_pipeline_entry {id k : Nat} {T : Tile} (h : s.pipeline.regTile[id]? = some T) (hk : k < 16) :
    s.pipeline.pt (16 * id + k) = patternByte s.colours T k := by
  obtain ⟨hlt, -⟩ := List.getElem?_eq_some_iff.mp h
  have hid : id < s.pipeline.regCount := hlt
  have hcount := s.regCount_pipeline_le
  have hdiv : (16 * id + k) / 16 = id := by omega
  have hmod : (16 * id + k) % 16 = k := by omega
  rw [State.pt_pipeline s (by omega), if_pos (by omega), hdiv, hmod, State.regTileAt_of_getElem? h]

/-- R137: the pattern table is zero after the entries. -/
theorem State.pt_pipeline_of_le {i : Nat} (h : 16 * s.pipeline.regCount ≤ i) (hi : i < 4096) :
    s.pipeline.pt i = 0 := by
  rw [State.pt_pipeline s hi, if_neg (by omega)]

/-! ### The register PT_LEN (R32) -/

/-- PT_LEN has room for the whole table of 4096 bytes, so its 13 bits do not wrap. -/
theorem State.readValue_ptLen (hb : s.engine ≠ .busy) (hcount : s.regCount ≤ 256) :
    (s.readValue 0x10018).toNat = 16 * s.regCount := by
  have hread : s.readValue 0x10018 = s.ptLenWord :=
    State.readValue_ofNat hb (n := 0x10018) (w := 0x4006) (by decide) (by decide)
  rw [hread, State.ptLenWord, BitVec.toNat_setWidth_of_le (by decide), BitVec.toNat_ofNat,
    Nat.mod_eq_of_lt (by omega)]

/-! ### The obligations -/

/-- Settles O30: the effect of ENCODE is one pattern entry, whose bits are the slots of the tile's pixels. -/
theorem encodeWritesThePatternEntry : Obligations.EncodeWritesThePatternEntry := by
  intro s id
  constructor
  · intro T hT
    refine ⟨_, exec_encode_of_getElem? hT, rfl, fun r hr c hc => ⟨?_, ?_⟩, s.sameOutside_encodeTile id.toNat⟩
    · rw [State.pt_finish, State.pt_encodeTile_entry hT (by omega)]
      exact getLsbD_patternByte_low s.colours T hr hc
    · rw [State.pt_finish, Nat.add_assoc, State.pt_encodeTile_entry hT (by omega)]
      exact getLsbD_patternByte_high s.colours T hc
  · exact exec_encode_of_regCount_le

/-- Settles O32: the three outcomes of the check of a bit group, and the bits of the packed byte. -/
theorem pack8PacksTheBitGroup : Obligations.Pack8PacksTheBitGroup := by
  intro s
  refine ⟨fun hlen hbits => ?_, fun hlen => ?_, fun i hi hlen hz ho hbefore => ?_⟩
  · have hcheck : checkOf .pack8 s = none := requireBits_of_bits hlen hbits
    exact ⟨packByte s.bgElemAt, exec_of_checkOf_none hcheck, fun i hi => getLsbD_packByte s.bgElemAt hbits hi⟩
  · have hcheck : checkOf .pack8 s = some (.error ⟨.malformedBitGroup, 0, s.bgLen, 0⟩) :=
      requireBits_of_length_ne s.bgElemAt hlen
    exact exec_of_checkOf_error hcheck
  · have hcheck : checkOf .pack8 s = some (.error ⟨.malformedBitGroup, 1, s.bgElemAt i, BitVec.ofNat 6 i⟩) :=
      requireBits_of_first_bad hlen hi hz ho hbefore
    exact exec_of_checkOf_error hcheck

/-- Settles O41: a RUN that ends DONE is the pipeline, whose registry holds at most 256 tiles. -/
theorem runPatternTable : Obligations.RunPatternTable := by
  intro s u hnext hdone
  obtain rfl := eq_finish_of_run_done hnext hdone
  refine ⟨fun id T hT k hk => ?_, fun i hle hi => ?_, ?_⟩
  · rw [State.finish_regTile] at hT
    rw [State.pt_finish, State.finish_colours, State.pipeline_colours]
    exact State.pt_pipeline_entry hT hk
  · rw [State.regCount_finish] at hle
    rw [State.pt_finish]
    exact State.pt_pipeline_of_le hle hi
  · apply State.readValue_ptLen
    · rw [State.finish_engine]
      decide
    · rw [State.regCount_finish]
      exact s.regCount_pipeline_le

end Sys2Proof.Machine
end

section
/-! PACKATTR (44_attribute.md): the byte of AT it writes, and its one check (R160 to R162). -/

namespace Sys2Proof.Machine

/-! ### One byte of AT (R162) -/

theorem State.attr_packSuper_same (s : State) (k : Nat) : (s.packSuper k).attr k = s.attrOf k := by
  rw [State.attr_packSuper, if_pos rfl]

theorem State.sameOutside_packSuper (s : State) (k : Nat) : s.SameOutside (s.packSuper k) (atBase + k) 1 := by
  intro a ha
  rw [State.packSuper_mem, Memory.read_write, if_neg (by omega)]

/-- PACKATTR of a super-block of the grid passes its only check (R162). -/
theorem exec_packattr_of_lt {s : State} {k : BitVec 8} (h : k.toNat < 16) :
    exec (.packattr k) s = .next ((s.packSuper k.toNat).finish (byteResult ((s.packSuper k.toNat).attr k.toNat))) :=
  exec_of_checkOf_none (i := .packattr k) (requireBelow_eq_none.mpr h)

theorem exec_packattr_of_le {s : State} {k : BitVec 8} (h : 16 ≤ k.toNat) :
    exec (.packattr k) s = .next (s.afterError .illegalOperand 0 k 0) :=
  exec_of_checkOf_error (i := .packattr k) (requireBelow_eq_some.mpr ⟨h, rfl⟩)

/-! ### The obligation -/

/-- Settles O35: the effect of PACKATTR is one byte of AT, packed from the palette bits of its four blocks. -/
theorem packattrPacksFourBlocks : Obligations.PackattrPacksFourBlocks := by
  intro s k
  refine ⟨exec_packattr_of_le, fun hlt => ⟨_, exec_packattr_of_lt hlt, ?_, ?_, s.sameOutside_packSuper k.toNat⟩⟩
  · rw [State.attr_finish]
    rfl
  · rw [State.attr_finish, State.attr_packSuper_same]
    exact s.attrOf_toNat k.toNat

end Sys2Proof.Machine
end

section
/-! NOP (45_control.md, R171): its CMD write never makes the engine BUSY. -/

namespace Sys2Proof.Machine

variable {s : State} {off : Offset} {rest : List HostMove}

/-- While IDLE or DONE, the word of NOP has its effect at once, which is none (R171). -/
theorem State.submit_nop (h : s.engine = .idle ∨ s.engine = .done) : s.submit (encode .nop) = .next s := by
  have hb : s.engine ≠ .busy := by rcases h with h | h <;> simp [h]
  have he : s.engine ≠ .error := by rcases h with h | h <;> simp [h]
  unfold State.submit
  rw [if_neg hb, if_neg fun h => he h.1, if_pos rfl]
  rfl

/-- Taking a host move touches only the host's side of the model and the schedule. -/
theorem State.block_takeMove (s : State) (rest : List HostMove) : (s.takeMove rest).block = s.block := rfl

theorem State.block_drop_takeMove (s : State) (rest : List HostMove) :
    (s.takeMove rest).drop.block = { s with dropped := true }.block := rfl

/-- Settles O36: NOP has no check and no effect, and its word is dropped while ERROR or BUSY. -/
theorem nopChangesNothing : Obligations.NopChangesNothing := by
  refine ⟨fun s => rfl, fun s off rest h ho => ⟨fun hready => ?_, fun hclosed => ?_⟩⟩
  · have hsubmit : step s = .next (s.takeMove rest) :=
      (step_of_submit h (portOf_cmd ho)).trans (State.submit_nop (s := s.takeMove rest) hready)
    exact ⟨_, hsubmit, s.block_takeMove rest⟩
  · have hdrop : step s = .next (s.takeMove rest).drop := by
      rcases hclosed with he | hb
      · exact step_of_cmd_write_error h he (portOf_cmd ho) (by decide)
      · exact step_of_write_busy h hb (.inl (portOf_cmd ho))
    exact ⟨_, hdrop, s.block_drop_takeMove rest⟩

end Sys2Proof.Machine
end

section
/-! RUN against the sequence of its stage commands (45_control.md, R174). A stage command does what one step of a RUN
phase does and finishes; RESULT and STATE, which finishing sets, are read by no stage command, so a phase of commands
stays equal to the phase of RUN but for them. -/

namespace Sys2Proof.Machine

variable {s t v : State}

/-! ### Equality but for RESULT and STATE -/

/-- The two states differ at most in RESULT and STATUS.STATE. -/
def State.EqButResult (s t : State) : Prop := s.finish 0 = t.finish 0

theorem State.EqButResult.refl (s : State) : s.EqButResult s := rfl

/-! ### RESULT and STATE are read by no operation and by no check -/

@[simp] theorem State.finish_finish (s : State) (r r' : BitVec 9) : (s.finish r).finish r' = s.finish r' := rfl

theorem State.finish_with_result (s : State) (r r' : BitVec 9) : { s.finish r with result := r' } = s.finish r' := rfl

@[simp] theorem State.tile_finish (s : State) (r : BitVec 9) (k : Nat) : (s.finish r).tile k = s.tile k := rfl

@[simp] theorem State.idOf_finish (s : State) (r : BitVec 9) (k : Nat) : (s.finish r).idOf k = s.idOf k := rfl

@[simp] theorem State.classifyTiles_finish (s : State) (r : BitVec 9) (ts : List Nat) :
    (s.finish r).classifyTiles ts = s.classifyTiles ts := rfl

@[simp] theorem State.registerTile_finish (s : State) (r : BitVec 9) (k : Nat) :
    (s.finish r).registerTile k = (s.registerTile k).finish r := rfl

@[simp] theorem State.encodeTile_finish (s : State) (r : BitVec 9) (id : Nat) :
    (s.finish r).encodeTile id = (s.encodeTile id).finish r := rfl

@[simp] theorem State.setBlockPalette_finish (s : State) (r : BitVec 9) (b : Nat) (v : Bool) :
    (s.finish r).setBlockPalette b v = (s.setBlockPalette b v).finish r := rfl

@[simp] theorem State.classifyBlock_finish (s : State) (r : BitVec 9) (b : Nat) :
    (s.finish r).classifyBlock b = (s.classifyBlock b).finish r := by
  rw [State.classifyBlock, State.classifyTiles_finish, State.setBlockPalette_finish, State.classifyBlock]

@[simp] theorem State.packSuper_finish (s : State) (r : BitVec 9) (k : Nat) :
    (s.finish r).packSuper k = (s.packSuper k).finish r := rfl

theorem State.requireDim_finish (s : State) (r : BitVec 9) : (s.finish r).requireDim = s.requireDim := rfl

theorem State.requireWritten_finish (s : State) (r : BitVec 9) :
    (s.finish r).requireWritten = s.requireWritten := rfl

theorem State.requireValid_finish (s : State) (r : BitVec 9) : (s.finish r).requireValid = s.requireValid := by
  funext k
  rw [State.requireValid, State.requireWritten_finish, State.tile_finish, State.finish_colours, State.requireValid]

theorem State.requireRoom_finish (s : State) (r : BitVec 9) : (s.finish r).requireRoom = s.requireRoom := rfl

theorem State.requireAllValid_finish (s : State) (r : BitVec 9) (ts : List Nat) :
    (s.finish r).requireAllValid ts = s.requireAllValid ts := by
  rw [State.requireAllValid, State.requireValid_finish, State.requireAllValid]

/-- No check of any command looks at RESULT or STATE. -/
theorem checkOf_finish (i : Instr) (s : State) (r : BitVec 9) : checkOf i (s.finish r) = checkOf i s := by
  cases i with
  | nop | clear | packattr _ => rfl
  | chkdim => exact s.requireDim_finish r
  | pack8 => rfl
  | encode id => rw [checkOf, State.regCount_finish, checkOf]
  | validate t => rw [checkOf, State.requireDim_finish, State.requireWritten_finish, checkOf]
  | register t =>
    rw [checkOf, State.requireDim_finish, State.requireValid_finish, State.requireRoom_finish, checkOf]
  | run => rw [checkOf, State.requireDim_finish, State.requireAllValid_finish, checkOf]
  | classify b => rw [checkOf, State.requireDim_finish, State.requireAllValid_finish, checkOf]

/-! ### What a stage command performs -/

/-- Command `i` does `op` and finishes, and its effect does not look at RESULT and STATE. -/
structure Performs (i : Instr) (op : State → State) : Prop where
  writes : ∀ s, (effectOf i s).EqButResult (op s)
  reads  : ∀ s r, effectOf i (s.finish r) = effectOf i s

theorem performs_register {a : BitVec 8} {n : Nat} (h : a.toNat = n) : Performs (.register a) (·.registerTile n) where
  writes _ := by rw [← h]; exact State.finish_finish _ _ _
  reads _ _ := by simp only [effectOf, State.registerTile_finish, State.idOf_finish, State.finish_finish]

theorem performs_encode {a : BitVec 8} {n : Nat} (h : a.toNat = n) : Performs (.encode a) (·.encodeTile n) where
  writes _ := by rw [← h]; exact State.finish_finish _ _ _
  reads _ _ := by simp only [effectOf, State.encodeTile_finish, State.finish_finish]

theorem performs_classify {a : BitVec 8} {n : Nat} (h : a.toNat = n) : Performs (.classify a) (·.classifyBlock n) where
  writes _ := by rw [← h]; exact State.finish_finish _ _ _
  reads _ _ := by simp only [effectOf, State.classifyBlock_finish, State.blockPalette_finish, State.finish_finish]

theorem performs_packattr {a : BitVec 8} {n : Nat} (h : a.toNat = n) : Performs (.packattr a) (·.packSuper n) where
  writes _ := by rw [← h]; exact State.finish_finish _ _ _
  reads _ _ := by simp only [effectOf, State.packSuper_finish, State.attr_finish, State.finish_finish]

/-! ### A stage command in a state that is equal but for RESULT and STATE -/

theorem State.EqButResult.checkOf_eq (h : v.EqButResult s) (i : Instr) : checkOf i v = checkOf i s := by
  rw [← checkOf_finish i v 0, h, checkOf_finish]

theorem State.EqButResult.effectOf_eq {i : Instr} {op : State → State} (h : v.EqButResult s) (hi : Performs i op) :
    effectOf i v = effectOf i s := by
  rw [← hi.reads v 0, h, hi.reads]

/-- A stage command whose checks pass in `s` has the effect it has in `s`. -/
theorem State.EqButResult.exec_eq {i : Instr} {op : State → State} (h : v.EqButResult s) (hi : Performs i op)
    (hcheck : checkOf i s = none) : exec i v = .next (effectOf i s) := by
  rw [exec_of_checkOf_none ((h.checkOf_eq i).trans hcheck), h.effectOf_eq hi]

/-! ### Runs of commands -/

/-- A run of a list and then another. -/
theorem execAll_append {l : List Instr} (h : execAll l s = .next t) (l' : List Instr) :
    execAll (l ++ l') s = execAll l' t := by
  induction l generalizing s with
  | nil => rw [Host.Outcome.next.inj h, List.nil_append]
  | cons i l ih =>
    rw [List.cons_append, execAll]
    rw [execAll] at h
    cases hi : exec i s with
    | next m =>
      rw [hi] at h
      exact ih h
    | fault f => rw [hi] at h; cases h
    | refused r => rw [hi] at h; cases h

theorem execAll_singleton {i : Instr} (h : exec i s = .next t) : execAll [i] s = .next t := by
  simp only [execAll, h]

section Phase

variable {i : Nat → Instr} {op : State → Nat → State} {n : Nat}

/-- A phase of commands ends with the effect its last command has in the state of the phase of RUN before it. -/
theorem execAll_phase_succ (hv : v.EqButResult s) (hop : ∀ k < n + 1, Performs (i k) (op · k))
    (hcheck : ∀ k < n + 1, checkOf (i k) ((List.range k).foldl op s) = none) :
    execAll ((List.range (n + 1)).map i) v = .next (effectOf (i n) ((List.range n).foldl op s)) := by
  induction n with
  | zero => exact execAll_singleton (hv.exec_eq (hop 0 (by omega)) (hcheck 0 (by omega)))
  | succ n ih =>
    have hbefore := ih (fun k hk => hop k (by omega)) (fun k hk => hcheck k (by omega))
    have hsame : (effectOf (i n) ((List.range n).foldl op s)).EqButResult ((List.range (n + 1)).foldl op s) := by
      rw [foldl_range_succ]
      exact (hop n (by omega)).writes _
    rw [List.range_succ, List.map_append, execAll_append hbefore]
    exact execAll_singleton (hsame.exec_eq (hop (n + 1) (by omega)) (hcheck (n + 1) (by omega)))

/-- A phase of commands does what the phase of RUN does, but for RESULT and STATE. -/
theorem execAll_phase (hv : v.EqButResult s) (hop : ∀ k < n, Performs (i k) (op · k))
    (hcheck : ∀ k < n, checkOf (i k) ((List.range k).foldl op s) = none) :
    ∃ w, execAll ((List.range n).map i) v = .next w ∧ w.EqButResult ((List.range n).foldl op s) := by
  cases n with
  | zero => exact ⟨v, rfl, hv⟩
  | succ n =>
    refine ⟨_, execAll_phase_succ hv hop hcheck, ?_⟩
    rw [foldl_range_succ]
    exact (hop n (by omega)).writes _

end Phase

/-! ### The checks of RUN hold through its phases -/

/-- What phase 1 of RUN checks (R173): the dimensions, and every tile loaded and of known colours. -/
structure State.GridOk (s : State) : Prop where
  dims  : s.dimensionsOk
  tiles : ∀ k < 256, s.TileWritten k ∧ s.TileValid k

theorem checkOf_run_eq_none : checkOf .run s = none ↔ s.GridOk := by
  rw [checkOf, Option.or_eq_none_iff, s.requireDim_eq_none, s.requireAllValid_eq_none]
  simp only [List.mem_range]
  exact ⟨fun ⟨hd, ht⟩ => ⟨hd, ht⟩, fun ⟨hd, ht⟩ => ⟨hd, ht⟩⟩

/-- The checks rest on PIXMEM, GRID_DIM and the colour table alone. -/
theorem State.GridOk.of_samePixels (h : s.GridOk) (hp : t.SamePixels s) (hd : t.gridDim = s.gridDim)
    (hc : t.colours = s.colours) : t.GridOk where
  dims := hd.trans h.dims
  tiles k hk := by
    obtain ⟨hw, hv⟩ := h.tiles k hk
    refine ⟨fun p hlt => ?_, fun p hlt => ?_⟩
    · rw [hp.written (tilePixel_lt hk hlt)]
      exact hw p hlt
    · rw [hp.pixmem (tilePixel_lt hk hlt), State.IsColour, hc]
      exact hv p hlt

theorem State.GridOk.startRun (h : s.GridOk) : s.startRun.GridOk :=
  h.of_samePixels s.startRun_samePixels s.startRun_gridDim s.startRun_colours

theorem State.GridOk.foldl_registerTile (h : s.GridOk) (l : List Nat) : (l.foldl State.registerTile s).GridOk :=
  h.of_samePixels (foldl_registerTile_samePixels l s) (foldl_registerTile_field _ State.registerTile_gridDim l s)
    (foldl_registerTile_field _ State.registerTile_colours l s)

theorem State.GridOk.foldl_encodeTile (h : s.GridOk) (l : List Nat) : (l.foldl State.encodeTile s).GridOk :=
  h.of_samePixels (foldl_encodeTile_samePixels l s) (foldl_encodeTile_field _ State.encodeTile_gridDim l s)
    (foldl_encodeTile_field _ State.encodeTile_colours l s)

theorem State.GridOk.foldl_classifyBlock (h : s.GridOk) (l : List Nat) : (l.foldl State.classifyBlock s).GridOk :=
  h.of_samePixels (foldl_classifyBlock_samePixels l s) (foldl_classifyBlock_field _ State.classifyBlock_gridDim l s)
    (foldl_classifyBlock_field _ State.classifyBlock_colours l s)

theorem State.GridOk.registerAll (h : s.GridOk) : s.registerAll.GridOk := h.foldl_registerTile (List.range 256)

theorem State.GridOk.encodeAll (h : s.GridOk) : s.encodeAll.GridOk := h.foldl_encodeTile (List.range s.regCount)

/-! ### The checks of the stage commands pass -/

theorem State.GridOk.checkOf_register (h : s.GridOk) {a : BitVec 8} (hroom : s.regCount < 256) :
    checkOf (.register a) s = none := by
  rw [checkOf, Option.or_eq_none_iff, Option.or_eq_none_iff, s.requireDim_eq_none, s.requireValid_eq_none,
    State.requireRoom_eq_none]
  exact ⟨⟨h.dims, h.tiles _ a.isLt⟩, fun hfull => Nat.not_le.mpr hroom hfull.2⟩

theorem State.GridOk.checkOf_classify (h : s.GridOk) {a : BitVec 8} (ha : a.toNat < 64) :
    checkOf (.classify a) s = none := by
  rw [checkOf, Option.or_eq_none_iff, Option.or_eq_none_iff, requireBelow_eq_none, s.requireDim_eq_none,
    s.requireAllValid_eq_none]
  exact ⟨⟨ha, h.dims⟩, fun k hk => h.tiles k (blockTiles_lt ha hk)⟩

/-- Registering the first `n` tiles, from an empty registry, registers at most `n` (R124). -/
theorem State.regCount_foldl_registerTile_le (h : s.regTile = []) {n : Nat} (hn : n ≤ 256) :
    ((List.range n).foldl State.registerTile s).regCount ≤ n := by
  have hreg : s.Registered ((List.range n).foldl State.registerTile s) n :=
    foldl_range_induction (P := fun k u => s.Registered u k) n (State.Registered.zero h)
      fun _ _ hk hu => hu.succ (by omega)
  exact hreg.count

/-- A number below 256 is the operand it is written as (R71). -/
theorem toNat_ofNat_of_lt {n : Nat} (h : n < 256) : (BitVec.ofNat 8 n).toNat = n := Nat.mod_eq_of_lt h

/-! ### The four phases -/

/-- REGISTER 0 .. 255 is phase 2 (R173). -/
theorem execAll_register (h : s.GridOk) (hempty : s.regTile = []) (hv : v.EqButResult s) :
    ∃ w, execAll ((List.range 256).map fun k => .register (BitVec.ofNat 8 k)) v = .next w ∧
      w.EqButResult s.registerAll := by
  refine execAll_phase hv (fun k hk => performs_register (toNat_ofNat_of_lt hk)) fun k hk => ?_
  have hcount := State.regCount_foldl_registerTile_le hempty (Nat.le_of_lt hk)
  exact (h.foldl_registerTile _).checkOf_register (by omega)

/-- ENCODE 0 .. D-1 is phase 3 (R173). -/
theorem execAll_encode (hcount : s.regCount ≤ 256) (hv : v.EqButResult s) :
    ∃ w, execAll ((List.range s.regCount).map fun k => .encode (BitVec.ofNat 8 k)) v = .next w ∧
      w.EqButResult s.encodeAll := by
  have hlt {k : Nat} (hk : k < s.regCount) : (BitVec.ofNat 8 k).toNat = k := toNat_ofNat_of_lt (by omega)
  refine execAll_phase hv (fun k hk => performs_encode (hlt hk)) fun k hk => requireBelow_eq_none.mpr ?_
  rw [hlt hk, State.regCount, foldl_encodeTile_field _ State.encodeTile_regTile]
  exact hk

/-- CLASSIFY 0 .. 63 is phase 4 (R173). -/
theorem execAll_classify (h : s.GridOk) (hv : v.EqButResult s) :
    ∃ w, execAll ((List.range 64).map fun k => .classify (BitVec.ofNat 8 k)) v = .next w ∧
      w.EqButResult s.classifyAll := by
  have hlt {k : Nat} (hk : k < 64) : (BitVec.ofNat 8 k).toNat = k := toNat_ofNat_of_lt (by omega)
  refine execAll_phase hv (fun k hk => performs_classify (hlt hk)) fun k hk => ?_
  exact (h.foldl_classifyBlock _).checkOf_classify (by rw [hlt hk]; exact hk)

/-- PACKATTR 0 .. 15 is phase 5 (R173), and RESULT is what the last one stored. -/
theorem execAll_packattr (hv : v.EqButResult s) :
    execAll ((List.range 16).map fun k => .packattr (BitVec.ofNat 8 k)) v =
      .next (s.packAll.finish (byteResult (s.packAll.attr 15))) := by
  have hlt {k : Nat} (hk : k < 16) : (BitVec.ofNat 8 k).toNat = k := toNat_ofNat_of_lt (by omega)
  have hphase := execAll_phase_succ (i := fun k => .packattr (BitVec.ofNat 8 k)) (op := State.packSuper) (n := 15) hv
    (fun k hk => performs_packattr (hlt hk)) fun k hk => requireBelow_eq_none.mpr (by rw [hlt hk]; exact hk)
  have hall : s.packAll = ((List.range 15).foldl State.packSuper s).packSuper 15 := foldl_range_succ _ s 15
  rw [hall]
  exact hphase

/-! ### The obligation -/

theorem State.pipeline_eq_phases (s : State) :
    s.pipeline = s.startRun.registerAll.encodeAll.classifyAll.packAll := by
  rw [State.pipeline]

/-- The stage commands of RUN in the order of R174, for `d` registered tiles. -/
def stageCommands (d : Nat) : List Instr :=
  (List.range 256).map (fun k => Instr.register (BitVec.ofNat 8 k)) ++
    (List.range d).map (fun k => Instr.encode (BitVec.ofNat 8 k)) ++
    (List.range 64).map (fun k => Instr.classify (BitVec.ofNat 8 k)) ++
    (List.range 16).map (fun k => Instr.packattr (BitVec.ofNat 8 k))

/-- The sequence of R174, from the state phase 2 starts with, ends as the pipeline of RUN but for RESULT. -/
theorem execAll_stages (h : s.GridOk) :
    execAll (stageCommands s.pipeline.regCount) s.startRun =
      .next (s.pipeline.finish (byteResult (s.pipeline.attr 15))) := by
  have hcount : s.pipeline.regCount = s.startRun.registerAll.regCount := by
    unfold State.regCount
    rw [s.pipeline_regTile]
  have hle : s.startRun.registerAll.regCount ≤ 256 := hcount ▸ s.regCount_pipeline_le
  obtain ⟨w2, hrun2, hw2⟩ := execAll_register h.startRun s.startRun_regTile (.refl s.startRun)
  obtain ⟨w3, hrun3, hw3⟩ := execAll_encode hle hw2
  obtain ⟨w4, hrun4, hw4⟩ := execAll_classify h.startRun.registerAll.encodeAll hw3
  rw [stageCommands, hcount, List.append_assoc, List.append_assoc, execAll_append hrun2, execAll_append hrun3,
    execAll_append hrun4, s.pipeline_eq_phases]
  exact execAll_packattr hw4

/-- Settles O43: a RUN that ends DONE passed its checks, so every stage command passes its own. -/
theorem runIsTheStageSequence : Obligations.RunIsTheStageSequence := by
  intro s u hnext hdone
  have hgrid : s.GridOk := by
    rcases exec_next hnext with ⟨hcheck, -⟩ | ⟨r, -, rfl⟩
    · exact checkOf_run_eq_none.mp hcheck
    · rw [State.enterError_engine] at hdone
      cases hdone
  obtain rfl := eq_finish_of_run_done hnext hdone
  rw [State.regCount_finish]
  refine ⟨_, execAll_stages hgrid, ?_, State.finish_result _ _⟩
  rw [State.attr_finish]
  exact (State.finish_with_result _ _ _).symm

end Sys2Proof.Machine
end

section
/-! Errors (60_exceptions.md): error entry is precise (R206), for it is the one way a command enters ERROR. -/

namespace Sys2Proof.Machine

variable {i : Instr} {s t : State}

/-! ### The code a check raises (R200) -/

theorem checkOf_error_code_ne_noError {r : ErrRecord} (h : checkOf i s = some (.error r)) : r.code ≠ .noError := by
  rcases checkOf_error h with ⟨hc, -⟩ | ⟨hc, -⟩ | ⟨hc, -⟩ | ⟨hc, -⟩ | ⟨hc, -⟩
  all_goals
    rw [hc]
    decide

/-! ### The one way into ERROR -/

/-- A command that passed its checks ends with STATE kept (NOP), IDLE (CLEAR) or DONE. -/
theorem effectOf_engine_ne_error (h : s.engine ≠ .error) : (effectOf i s).engine ≠ .error := by
  rw [effectOf_engine]
  split
  · exact h
  · decide
  · decide

/-- A command that takes the engine to ERROR was stopped by one of its checks, and its next state is error entry. -/
theorem exec_enters_error (hnext : exec i s = .next t) (hs : s.engine ≠ .error) (ht : t.engine = .error) :
    ∃ r, checkOf i s = some (.error r) ∧ t = s.enterError r := by
  rcases exec_next hnext with ⟨-, rfl⟩ | hstop
  · exact absurd ht (effectOf_engine_ne_error hs)
  · exact hstop

/-! ### The obligations -/

/-- Settles O45: the next state is error entry, which writes the three places and nothing else. -/
theorem errorEntryIsPrecise : Obligations.ErrorEntryIsPrecise := by
  intro i s t hnext hs ht
  obtain ⟨r, hcheck, rfl⟩ := exec_enters_error hnext hs ht
  exact ⟨checkOf_error_code_ne_noError hcheck, rfl, rfl⟩

end Sys2Proof.Machine
end

section
/-! The decoder and the encoder are inverse to each other (30_encoding.md, R70 to R77): the word of a well-formed command
decodes to it, and a word that decodes to a command is that command's one legal word. -/

namespace Sys2Proof

variable {w : Word}

/-! ### The decoder on the word of a command (R73, R75) -/

theorem decode_commandWord_classify_of_lt {b : BitVec 8} (h : b.toNat < 64) :
    decode (commandWord 0x7 b) = .command (.classify b) := by
  simp [decode, h]

theorem decode_commandWord_packattr_of_lt {k : BitVec 8} (h : k.toNat < 16) :
    decode (commandWord 0x8 k) = .command (.packattr k) := by
  simp [decode, h]

/-- R73, R77: decoding takes the word of every well-formed command back to it. -/
theorem decode_encode {i : Instr} (h : i.wf = true) : decode (encode i) = .command i := by
  cases i with
  | nop | run | clear | chkdim | pack8 => decide
  | validate t => exact decode_commandWord_validate t
  | register t => exact decode_commandWord_register t
  | encode id => exact decode_commandWord_encode id
  | classify b => exact decode_commandWord_classify_of_lt (of_decide_eq_true h)
  | packattr k => exact decode_commandWord_packattr_of_lt (of_decide_eq_true h)

/-! ### The word a command was decoded from (R74, R77) -/

/-- With the reserved fields 0, a word is OP and ARG in their places (R70). -/
theorem commandWord_fields (h0 : rsv0Field w = 0) (h1 : rsv1Field w = 0) :
    commandWord (opField w) (argField w) = w := by
  rw [rsv0Field_eq_zero] at h0
  rw [rsv1Field_eq_zero] at h1
  have harg : (argField w).toNat = w.toNat / 256 % 256 := by
    simp [argField, Nat.shiftRight_eq_div_pow]
  have hshift : (w.toNat / 256 % 256) <<< 8 < 2 ^ 32 := by
    rw [Nat.shiftLeft_eq]
    omega
  have hor : w.toNat % 16 ||| (w.toNat / 256 % 256) <<< 8 = w.toNat := by
    rw [Nat.or_comm, ← Nat.shiftLeft_add_eq_or_of_lt (by omega), Nat.shiftLeft_eq]
    omega
  apply BitVec.eq_of_toNat_eq
  rw [commandWord, BitVec.toNat_or, BitVec.toNat_shiftLeft, BitVec.toNat_setWidth_of_le (by decide),
    BitVec.toNat_setWidth_of_le (by decide), opField_toNat, harg, Nat.mod_eq_of_lt hshift, hor]

theorem decodeBare_eq_command {arg : BitVec 8} {i j : Instr} (h : decodeBare arg i = .command j) :
    arg = 0 ∧ i = j := by
  unfold decodeBare at h
  split at h
  · next harg => exact ⟨harg, Decoded.command.inj h⟩
  · cases h

/-- A word that decodes to a command has zero reserved fields (R74). -/
theorem reserved_of_decode_eq_command {i : Instr} (h : decode w = .command i) :
    rsv0Field w = 0 ∧ rsv1Field w = 0 := by
  by_contra hres
  rw [decode_of_reserved (by simpa [Classical.or_iff_not_imp_left] using hres)] at h
  cases h

/-- R77: a command that the decoder gives is well-formed, and OP and ARG of its word are those of the word decoded. -/
theorem encode_of_decode_fields {i : Instr} (h : decode w = .command i) :
    i.wf = true ∧ encode i = commandWord (opField w) (argField w) := by
  obtain ⟨h0, h1⟩ := reserved_of_decode_eq_command h
  unfold decode at h
  rw [if_neg (by simp [h0, h1])] at h
  have hop {n : Nat} (hn : (opField w).toNat = n) : opField w = BitVec.ofNat 4 n := by
    rw [← hn, BitVec.ofNat_toNat, BitVec.setWidth_eq]
  split at h
  case h_1 hn | h_2 hn | h_3 hn | h_4 hn | h_10 hn =>
    obtain ⟨harg, rfl⟩ := decodeBare_eq_command h
    exact ⟨rfl, by rw [hop hn, harg]; rfl⟩
  case h_5 hn | h_6 hn | h_7 hn =>
    cases h
    exact ⟨rfl, by rw [hop hn]; rfl⟩
  case h_8 hn | h_9 hn =>
    split at h
    · next hlt =>
      cases h
      exact ⟨decide_eq_true hlt, by rw [hop hn]; rfl⟩
    · cases h
  case h_11 => cases h

/-- R74, R77: each command has exactly one legal word. -/
theorem encode_of_decode {i : Instr} (h : decode w = .command i) : encode i = w := by
  obtain ⟨h0, h1⟩ := reserved_of_decode_eq_command h
  rw [(encode_of_decode_fields h).2, commandWord_fields h0 h1]

/-! ### The obligations -/

/-- Settles O1: the fields of the command's word select its row of the opcode map. -/
theorem decodeOfEncode : Obligations.DecodeOfEncode := fun _ h => decode_encode h

/-- Settles O2: the decoder reads every field of the word, so the word is made of them. -/
theorem encodeOfDecode : Obligations.EncodeOfDecode := fun _ _ h =>
  ⟨(encode_of_decode_fields h).1, encode_of_decode h⟩

/-- Settles O5, by evaluating the decoder on each of the words. -/
theorem exampleWordsDecode : Obligations.ExampleWordsDecode := by
  unfold Obligations.ExampleWordsDecode
  decide

end Sys2Proof
end

section
/-! Steps: the life cycle of a command (45_control.md, R170, R171), the moves of the host (R59, R83, R230), and the ways
out of ERROR (R210). -/

namespace Sys2Proof.Machine

variable {s t : State} {i : Instr} {off : Offset} {rest : List HostMove}

/-! ### The completion (R170) -/

theorem State.engine_of_completionDue (h : s.completionDue = true) : s.engine = .busy := by
  simp only [State.completionDue, Bool.and_eq_true, decide_eq_true_eq] at h
  exact h.1

/-- A command that passes its checks does not leave the engine BUSY, NOP apart. -/
theorem effectOf_engine_ne_busy (h : i ≠ .nop) : (effectOf i s).engine ≠ .busy := by
  rw [effectOf_engine]
  split
  · exact absurd rfl h
  · decide
  · decide

/-- A completion of a word other than NOP's ends the command, or faults. -/
theorem State.complete_ends (h : s.inflight ≠ encode .nop) :
    (∃ t, s.complete = .next t ∧ t.engine ≠ .busy) ∨ ∃ f, s.complete = .fault f := by
  rcases s.complete_cases with ⟨i, hd, hc⟩ | ⟨e, -, hc⟩
  · have hnop : i ≠ .nop := by
      rintro rfl
      exact h (encode_of_decode hd).symm
    rcases exec_cases i s with ⟨-, he⟩ | ⟨r, -, he⟩ | ⟨f, -, he⟩
    · exact .inl ⟨_, hc.trans he, effectOf_engine_ne_busy hnop⟩
    · exact .inl ⟨_, hc.trans he, by simp⟩
    · exact .inr ⟨f, hc.trans he⟩
  · exact .inl ⟨_, hc, by simp⟩

theorem State.complete_ne_refused (s : State) (r : Refusal) : s.complete ≠ .refused r := by
  rcases s.complete_cases with ⟨i, -, hc⟩ | ⟨e, -, hc⟩ <;> rw [hc]
  · exact exec_ne_refused i s r
  · exact nofun

/-- With every word of PIXMEM written there is nothing to fault on (R45). -/
theorem exec_next_of_loaded (h : s.Loaded) (i : Instr) : ∃ t, exec i s = .next t := by
  rcases exec_cases i s with ⟨-, he⟩ | ⟨r, -, he⟩ | ⟨f, hcheck, -⟩
  · exact ⟨_, he⟩
  · exact ⟨_, he⟩
  · obtain ⟨-, j, hj, -, hunwritten⟩ := checkOf_fault hcheck
    rw [h j hj] at hunwritten
    cases hunwritten

theorem State.complete_next_of_loaded (h : s.Loaded) : ∃ t, s.complete = .next t := by
  rcases s.complete_cases with ⟨i, -, hc⟩ | ⟨e, -, hc⟩
  · rw [hc]
    exact exec_next_of_loaded h i
  · exact ⟨_, hc⟩

theorem exec_colours (hnext : exec i s = .next t) : t.colours = s.colours := by
  rcases exec_next hnext with ⟨-, rfl⟩ | ⟨r, -, rfl⟩
  · exact effectOf_colours i s
  · exact s.enterError_colours r

theorem State.complete_colours (hnext : s.complete = .next t) : t.colours = s.colours := by
  rcases s.complete_cases with ⟨i, -, hc⟩ | ⟨e, -, hc⟩
  · exact exec_colours (hc.symm.trans hnext)
  · cases hc.symm.trans hnext
    exact s.enterError_colours e

/-! ### The host's stores, in the fields that no store writes -/

theorem State.writePort_engine_colours (s : State) (v : Word) (p : Port) :
    (s.writePort v p).engine = s.engine ∧ (s.writePort v p).colours = s.colours := by
  cases p <;> exact ⟨rfl, rfl⟩

theorem State.hostStore_engine_colours (s : State) (p : Port) (v : Word) :
    (s.hostStore p v).engine = s.engine ∧ (s.hostStore p v).colours = s.colours := by
  unfold State.hostStore
  split
  · exact ⟨s.drop_engine, s.drop_colours⟩
  · exact s.writePort_engine_colours v p

/-- While BUSY a store is dropped or ignored (R55, R60). -/
theorem State.hostStore_cases_of_busy (hb : s.engine = .busy) (p : Port) (v : Word) :
    s.hostStore p v = s.drop ∨ s.hostStore p v = s := by
  rcases s.hostStore_cases p v with hs | ⟨hne, -⟩ | ⟨-, hs⟩
  · exact .inl hs
  · exact absurd hb hne
  · exact .inr hs

/-! ### The POLL loop (R83) -/

theorem State.pollOnce_of_busy (h : s.engine = .busy) :
    s.pollOnce = { s.hostRead statusOffset with inbox := .poll :: s.inbox } := if_pos h

theorem State.pollOnce_of_not_busy (h : s.engine ≠ .busy) : s.pollOnce = s.hostRead statusOffset := if_neg h

/-- POLL is a read of STATUS, but for the move left in the inbox. -/
theorem State.pollOnce_cases (s : State) :
    s.pollOnce = s.hostRead statusOffset ∨
      s.pollOnce = { s.hostRead statusOffset with inbox := .poll :: s.inbox } := by
  by_cases h : s.engine = .busy
  · exact .inr (State.pollOnce_of_busy h)
  · exact .inl (State.pollOnce_of_not_busy h)

theorem State.pollOnce_engine (s : State) : s.pollOnce.engine = s.engine := by
  rcases s.pollOnce_cases with hs | hs <;>
    (rw [hs]; rfl)

theorem State.pollOnce_colours (s : State) : s.pollOnce.colours = s.colours := by
  rcases s.pollOnce_cases with hs | hs <;>
    (rw [hs]; rfl)

/-- STATUS is no engine output: it reads its current value, while BUSY too (R62). -/
theorem State.readValue_status (s : State) : s.readValue statusOffset = s.statusWord := by
  have hp : portOf statusOffset = .status := by decide
  rw [State.readValue, hp, if_neg fun h => Bool.noConfusion h.2, State.readPort]

/-! ### The moves of the host -/

theorem State.submit_next (s : State) (w : Word) :
    ∃ t, s.submit w = .next t ∧ t.colours = s.colours := by
  rcases s.submit_cases w with ⟨hs, -⟩ | ⟨hs, -⟩ | ⟨hs, -⟩
  · exact ⟨_, hs, rfl⟩
  · exact ⟨_, hs, rfl⟩
  · exact ⟨_, hs, rfl⟩

/-- The host's move always answers a next state, and none changes the colour table (R38, R232). -/
theorem State.hostMove_next (s : State) (m : HostMove) : ∃ t, s.hostMove m = .next t ∧ t.colours = s.colours := by
  rcases s.hostMove_cases m with
    ⟨off, -, hs⟩ | ⟨-, hs⟩ | ⟨-, hs⟩ | ⟨off, v, -, -, hs⟩ | ⟨off, w, -, -, hs⟩
  · exact ⟨_, hs, s.hostRead_colours off⟩
  · exact ⟨_, hs, s.pollOnce_colours⟩
  · exact ⟨_, hs, s.hardReset_colours⟩
  · exact ⟨_, hs, (s.hostStore_engine_colours _ v).2⟩
  · rw [hs]
    exact s.submit_next w

/-- While BUSY, a move of the host resets the machine or leaves the command in flight (R60, R231). -/
theorem State.hostMove_of_busy (hb : s.engine = .busy) (m : HostMove) :
    ∃ t, s.hostMove m = .next t ∧
      (t.engine ≠ .busy ∨ (t.engine = .busy ∧ t.inflight = s.inflight ∧ t.latencyLeft = s.latencyLeft)) := by
  rcases s.hostMove_cases m with
    ⟨off, -, hs⟩ | ⟨-, hs⟩ | ⟨-, hs⟩ | ⟨off, v, -, -, hs⟩ | ⟨off, w, -, -, hs⟩ <;> rw [hs]
  · exact ⟨_, rfl, .inr ⟨hb, rfl, rfl⟩⟩
  · rw [State.pollOnce_of_busy hb]
    exact ⟨_, rfl, .inr ⟨hb, rfl, rfl⟩⟩
  · exact ⟨_, rfl, .inl (by simp)⟩
  · rcases State.hostStore_cases_of_busy hb (portOf off) v with hst | hst <;> rw [hst]
    · exact ⟨_, rfl, .inr ⟨hb, rfl, rfl⟩⟩
    · exact ⟨_, rfl, .inr ⟨hb, rfl, rfl⟩⟩
  · rw [State.submit_of_busy hb]
    exact ⟨_, rfl, .inr ⟨hb, rfl, rfl⟩⟩

/-- While ERROR, the word of CLEAR is accepted (R61, R210). -/
theorem State.submit_clear_of_error (he : s.engine = .error) :
    s.submit (encode .clear) = .next (s.accept (encode .clear)) := by
  unfold State.submit
  rw [if_neg (by simp [he]), if_neg (by simp), if_neg (by decide)]

/-- A CMD write leaves ERROR by the word of CLEAR alone (R210). -/
theorem State.submit_leaves_error {w : Word} (he : s.engine = .error) (hnext : s.submit w = .next t)
    (ht : t.engine ≠ .error) : w = encode .clear ∧ t = s.accept (encode .clear) := by
  by_cases hw : w = encode .clear
  · subst hw
    exact ⟨rfl, (Host.Outcome.next.inj ((State.submit_clear_of_error he).symm.trans hnext)).symm⟩
  · cases (State.submit_of_error he hw).symm.trans hnext
    exact absurd he ht

/-- A move of the host that leaves ERROR is the reset, or the acceptance of CLEAR's word (R210). -/
theorem State.hostMove_leaves_error {m : HostMove} (he : s.engine = .error) (hnext : s.hostMove m = .next t)
    (ht : t.engine ≠ .error) :
    (m = .reset ∧ t = s.hardReset) ∨
    ∃ off, m = .write off (encode .clear) ∧ portOf off = .cmd ∧ t = s.accept (encode .clear) := by
  rcases s.hostMove_cases m with
    ⟨off, -, hs⟩ | ⟨-, hs⟩ | ⟨hm, hs⟩ | ⟨off, v, -, -, hs⟩ | ⟨off, w, hm, hp, hs⟩ <;> rw [hs] at hnext
  · cases hnext
    exact absurd he ht
  · cases hnext
    exact absurd (s.pollOnce_engine.trans he) ht
  · cases hnext
    exact .inl ⟨hm, rfl⟩
  · cases hnext
    exact absurd ((s.hostStore_engine_colours _ v).1.trans he) ht
  · obtain ⟨rfl, htaccept⟩ := State.submit_leaves_error he hnext ht
    exact .inr ⟨off, hm, hp, htaccept⟩

/-! ### Every accepted command ends -/

/-- Within `n` steps the engine is not BUSY, or the machine has stopped with a fault. -/
def State.EndsWithin (s : State) (n : Nat) : Prop :=
  ∃ k ≤ n, (∃ t, core.run k s = .next t ∧ t.engine ≠ .busy) ∨ ∃ f, core.run k s = .fault f

theorem State.endsWithin_of_not_busy (h : s.engine ≠ .busy) (n : Nat) : s.EndsWithin n :=
  ⟨0, Nat.zero_le n, .inl ⟨s, rfl, h⟩⟩

theorem State.EndsWithin.of_next {n : Nat} (h : t.EndsWithin n) (hnext : step s = .next t) : s.EndsWithin (n + 1) := by
  obtain ⟨k, hk, hend⟩ := h
  refine ⟨k + 1, Nat.succ_le_succ hk, ?_⟩
  rw [run_succ_next core hnext k]
  exact hend

theorem State.endsWithin_of_fault {f : Fault} (h : step s = .fault f) (n : Nat) : s.EndsWithin (n + 1) :=
  ⟨1, Nat.succ_le_succ (Nat.zero_le n), .inr ⟨f, run_succ_fault core h 0⟩⟩

theorem State.endsWithin_of_due (hdue : s.completionDue = true) (h : s.inflight ≠ encode .nop) (n : Nat) :
    s.EndsWithin (n + 1) := by
  rcases State.complete_ends h with ⟨t, hc, ht⟩ | ⟨f, hc⟩
  · exact (State.endsWithin_of_not_busy ht n).of_next ((step_of_due hdue).trans hc)
  · exact State.endsWithin_of_fault ((step_of_due hdue).trans hc) n

/-- Each move the host makes while BUSY uses up one of the moves left before the completion (R170, log 8). -/
theorem State.endsWithin_latency {n : Nat} (hb : s.engine = .busy) (hw : s.inflight ≠ encode .nop)
    (hn : s.latencyLeft = n) : s.EndsWithin (n + 1) := by
  induction n generalizing s with
  | zero =>
    have hdue : s.completionDue = true := by simp [State.completionDue, hb, hn]
    exact State.endsWithin_of_due hdue hw 0
  | succ n ih =>
    rcases step_cases s with ⟨hdue, -⟩ | ⟨m, rest, -, hs⟩ | ⟨hdue, hinbox, -⟩
    · exact State.endsWithin_of_due hdue hw (n + 1)
    · obtain ⟨t, hmove, ht | ⟨htb, htw, htn⟩⟩ := State.hostMove_of_busy (s := s.takeMove rest) hb m
      · exact (State.endsWithin_of_not_busy ht (n + 1)).of_next (hs.trans hmove)
      · have hleft : t.latencyLeft = n := by rw [htn, State.takeMove_latencyLeft, hn, Nat.add_sub_cancel]
        exact (ih htb (htw ▸ hw) hleft).of_next (hs.trans hmove)
    · simp [State.completionDue, hb, hinbox] at hdue

/-! ### The obligations -/

/-- Settles O6: a due completion runs the decoded command, and NOP runs at its CMD write. -/
theorem stepRunsTheDecodedCommand : Obligations.StepRunsTheDecodedCommand := by
  refine ⟨fun s i hdue hd => step_of_command hdue hd, fun s off rest h ho hb he => ?_⟩
  have hready : s.engine = .idle ∨ s.engine = .done := by
    cases hs : s.engine with
    | idle => exact .inl rfl
    | done => exact .inr rfl
    | busy => exact absurd hs hb
    | error => exact absurd hs he
  exact (step_of_submit h (portOf_cmd ho)).trans (State.submit_nop (s := s.takeMove rest) hready)

/-- Settles O7: a CMD write is a submission, which drops the word, runs NOP, or accepts the word. -/
theorem commandAcceptance : Obligations.CommandAcceptance := by
  intro s off w rest h ho
  have hstep : step s = (s.takeMove rest).submit w := step_of_submit h (portOf_cmd ho)
  refine ⟨fun hb => ?_, fun he hw => ?_, fun hq hw => ?_, fun hq hw => ?_⟩
  · exact hstep.trans (State.submit_of_busy (s := s.takeMove rest) hb w)
  · exact hstep.trans (State.submit_of_error (s := s.takeMove rest) he hw)
  · subst hw
    exact hstep.trans (State.submit_nop (s := s.takeMove rest) hq)
  · refine ⟨Config.latency s.draws, hstep.trans ?_⟩
    rcases (s.takeMove rest).submit_cases w with ⟨-, hb | ⟨he, hclear⟩⟩ | ⟨-, hnop, -⟩ | ⟨hs, -⟩
    · rw [State.takeMove_engine] at hb
      simp [hb] at hq
    · rw [State.takeMove_engine] at he
      rcases hq with hq | hq | ⟨-, hq⟩
      · cases he.symm.trans hq
      · cases he.symm.trans hq
      · exact absurd hq hclear
    · exact absurd hnop hw
    · exact hs

/-- Settles O8, by induction on the moves left before the completion. -/
theorem everyAcceptedCommandEnds : Obligations.EveryAcceptedCommandEnds := fun _ hb hw =>
  State.endsWithin_latency hb hw rfl

/-- Settles O9: neither a completion nor a move of the host is refused. -/
theorem noStepIsRefused : Obligations.NoStepIsRefused := by
  intro s r
  rcases step_cases s with ⟨-, hs⟩ | ⟨m, rest, -, hs⟩ | ⟨-, -, hs⟩ <;> rw [hs]
  · exact s.complete_ne_refused r
  · obtain ⟨t, ht, -⟩ := (s.takeMove rest).hostMove_next m
    rw [ht]
    exact nofun
  · exact nofun

/-- Settles O10: POLL is a read of STATUS that puts itself back while BUSY. -/
theorem pollReadsStatusUntilNotBusy : Obligations.PollReadsStatusUntilNotBusy := by
  intro s rest h
  have hstep : step s = .next (s.takeMove rest).pollOnce := step_of_host h
  have hread : (s.takeMove rest).readValue statusOffset = s.statusWord := State.readValue_status _
  by_cases hb : s.engine = .busy
  · rw [State.pollOnce_of_busy (s := s.takeMove rest) hb] at hstep
    exact ⟨_, hstep, rfl, congrArg (· :: s.reads) hread, fun _ => rfl, fun hne => absurd hb hne⟩
  · rw [State.pollOnce_of_not_busy (s := s.takeMove rest) hb] at hstep
    exact ⟨_, hstep, rfl, congrArg (· :: s.reads) hread, fun hbusy => absurd hbusy hb, fun _ => rfl⟩

/-- Settles O18: a read writes only what the host has read and the counter of free values. -/
theorem hostReadsHaveNoSideEffects : Obligations.HostReadsHaveNoSideEffects := fun _ _ _ h =>
  ⟨_, step_of_host h, rfl, rfl, rfl⟩

/-- Settles O23: the reset is a move of the host, whatever the engine does. -/
theorem hardwareReset : Obligations.HardwareReset := fun _ _ h =>
  ⟨_, step_of_host h, rfl, rfl, rfl⟩

/-- Settles O47: no completion is due while ERROR, so the step is a move of the host; and CLEAR has no check. -/
theorem onlyClearOrResetLeavesError : Obligations.OnlyClearOrResetLeavesError := by
  refine ⟨fun s t hnext he ht => ?_, fun s hdue hw => ?_⟩
  · rcases step_cases s with ⟨hdue, -⟩ | ⟨m, rest, ⟨hinbox, -⟩, hs⟩ | ⟨-, -, hs⟩
    · cases he.symm.trans (State.engine_of_completionDue hdue)
    · rcases State.hostMove_leaves_error (s := s.takeMove rest) he (hs.symm.trans hnext) ht with
        ⟨rfl, rfl⟩ | ⟨off, rfl, hp, rfl⟩
      · exact .inl ⟨rest, hinbox, rfl, rfl, rfl⟩
      · exact .inr ⟨off, rest, hinbox, portOf_eq_cmd hp, rfl, rfl⟩
    · cases hs.symm.trans hnext
      exact absurd he ht
  · have hd : decode s.inflight = .command .clear := hw ▸ decode_encode (i := .clear) rfl
    exact ⟨s.clearEngine, step_of_command hdue hd, rfl, rfl, rfl⟩

/-- Settles O49: a completion is the one step that can stop, and it stops on unwritten input alone. -/
theorem loadedMachinesNeverStop : Obligations.LoadedMachinesNeverStop := by
  intro s h
  rcases step_cases s with ⟨-, hs⟩ | ⟨m, rest, -, hs⟩ | ⟨-, -, hs⟩
  · rw [hs]
    exact State.complete_next_of_loaded h
  · obtain ⟨t, ht, -⟩ := (s.takeMove rest).hostMove_next m
    exact ⟨t, hs.trans ht⟩
  · exact ⟨s, hs⟩

/-- Settles O56: no completion and no move of the host writes the colour table. -/
theorem colourTableIsConstant : Obligations.ColourTableIsConstant := by
  intro s t hnext
  rcases step_cases s with ⟨-, hs⟩ | ⟨m, rest, -, hs⟩ | ⟨-, -, hs⟩
  · exact State.complete_colours (hs.symm.trans hnext)
  · obtain ⟨u, hu, hcolours⟩ := (s.takeMove rest).hostMove_next m
    cases (hs.trans hu).symm.trans hnext
    exact hcolours
  · cases hs.symm.trans hnext
    rfl

end Sys2Proof.Machine
end

section
/-! The host window: which places are outputs, read-only or reserved, what they read as, and what a host write to them
does (20_memory.md, R51 to R62; the words of the registers, R26 to R36; host programs, R82). -/

namespace Sys2Proof.Machine

variable {s : State} {off off' : Offset} {v : Word} {rest : List HostMove} {p : Port}

/-! ### The places of the address map (R52) -/

theorem portOf_status (h : off.toNat / 4 = 0x4001) : portOf off = .status := portOf_of_word h

theorem exists_portOf_eq_bgElem (hlo : 0x4009 ≤ off.toNat / 4) (hhi : off.toNat / 4 ≤ 0x400C) :
    ∃ k, portOf off = .bgElem k := by
  obtain ⟨k, hk⟩ := Nat.exists_eq_add_of_le hlo
  exact ⟨⟨k, by omega⟩, portOf_bgElem hk⟩

/-- The engine outputs: the words whose reads are unspecified while BUSY (R62). -/
theorem isOutput_portOf
    (h : off.toNat / 4 ∈ [0x4002, 0x4003, 0x4005, 0x4006, 0x4007, 0x4010, 0x4011] ∨
      (0x4040 ≤ off.toNat / 4 ∧ off.toNat / 4 < 0x4084) ∨ (0x4400 ≤ off.toNat / 4 ∧ off.toNat / 4 < 0x4800)) :
    (portOf off).isOutput = true := by
  rcases h with hreg | ⟨hlo, hhi⟩ | ⟨hlo, hhi⟩
  · simp only [List.mem_cons, List.not_mem_nil, or_false] at hreg
    rcases hreg with hw | hw | hw | hw | hw | hw | hw <;>
      (rw [portOf_of_word hw]; rfl)
  · by_cases hnt : off.toNat / 4 < 0x4080
    · have hw : off.toNat / 4 = 0x4040 + (off.toNat / 4 - 0x4040) := by omega
      rw [portOf_of_word hw, portOfWord_nt (by omega)]
      rfl
    · have hw : off.toNat / 4 = 0x4080 + (off.toNat / 4 - 0x4080) := by omega
      rw [portOf_of_word hw, portOfWord_at (by omega)]
      rfl
  · have hw : off.toNat / 4 = 0x4400 + (off.toNat / 4 - 0x4400) := by omega
    rw [portOf_of_word hw, portOfWord_pt (by omega)]
    rfl

/-- Bits 1:0 of an offset do not select a place (R53). -/
theorem portOf_eq_of_word_bits (h : off &&& 0x1FFFC = off' &&& 0x1FFFC) : portOf off = portOf off' := by
  have hword (o : Offset) : (o &&& (0x1FFFC : Offset)).toNat / 4 = o.toNat / 4 := by
    have hmask : o &&& (0x1FFFC : Offset) = (o >>> 2) <<< 2 := by
      apply BitVec.eq_of_getLsbD_eq
      intro i hi
      interval_cases i <;> simp
    rw [hmask, BitVec.toNat_shiftLeft, BitVec.toNat_ushiftRight, Nat.shiftLeft_eq, Nat.shiftRight_eq_div_pow]
    omega
  have hsame : off.toNat / 4 = off'.toNat / 4 := by rw [← hword off, h, hword off']
  exact portOf_of_word hsame

/-! ### What the places read as (R54, R55, R62) -/

/-- Outside BUSY every place reads its current value. -/
theorem State.readValue_of_not_busy (hb : s.engine ≠ .busy) (hp : portOf off = p) :
    s.readValue off = s.readPort p := by
  rw [State.readValue, if_neg fun h => hb h.1, hp]

/-- What is no engine output reads its current value at any time (R54, R55, R62). -/
theorem State.readValue_of_not_output (hp : portOf off = p) (ho : p.isOutput = false) :
    s.readValue off = s.readPort p := by
  subst hp
  rw [State.readValue, if_neg fun h => Bool.noConfusion (ho.symm.trans h.2)]

/-- While BUSY an engine output reads a free value (R62). -/
theorem State.readValue_of_output (hb : s.engine = .busy) (ho : (portOf off).isOutput = true) :
    s.readValue off = Config.busyRead s.draws := if_pos ⟨hb, ho⟩

theorem State.readPort_bgElem (s : State) (k : Fin 4) : s.readPort (.bgElem k) = s.bgElem[k] := by
  simp [State.readPort, Vector.getD]

theorem State.readPort_writePort_bgElem (s : State) (v : Word) (k : Fin 4) :
    (s.writePort v (.bgElem k)).readPort (.bgElem k) = v := by
  rw [State.readPort_bgElem]
  exact Vector.getElem_set_self k.isLt

/-! ### Host writes that do nothing (R54, R55) -/

/-- A store to a place that is no input of the engine is ignored, while BUSY too. -/
theorem State.hostStore_of_not_input (hp : p.isInput = false) (v : Word) : s.hostStore p v = s := by
  rw [State.hostStore, if_neg fun h => Bool.noConfusion (hp.symm.trans h.2)]
  cases p with
  | pixmem _ | gridDim | bgLen | bgElem _ => cases hp
  | cmd | status | err | errCmd | distinct | ptLen | result | bpLo | bpHi | ntWord _ | atWord _ | ptWord _ | reserved =>
    rfl

theorem step_of_ignored_write (h : s.HostMoves (.write off v) rest) (hp : portOf off = p) (hc : p ≠ .cmd)
    (hin : p.isInput = false) : step s = .next (s.takeMove rest) := by
  subst hp
  rw [step_of_store h hc, State.hostStore_of_not_input hin]

/-- An engine output is neither CMD nor an input: the host cannot write it (R55). -/
theorem Port.readOnly_of_isOutput (h : p.isOutput = true) : p ≠ .cmd ∧ p.isInput = false := by
  cases p with
  | pixmem _ | cmd | status | gridDim | bgLen | bgElem _ | reserved => cases h
  | err | errCmd | distinct | ptLen | result | bpLo | bpHi | ntWord _ | atWord _ | ptWord _ => exact ⟨nofun, rfl⟩

/-! ### The words of the registers (R26 to R36) -/

/-- A field above bit `k` adds its value times `2^k` to a word that ends below bit `k`. -/
theorem toNat_or_shiftLeft {n k : Nat} {x : Word} (y : BitVec n) (hx : x.toNat < 2 ^ k) (hk : k + n ≤ 32) :
    (x ||| (y.setWidth 32 <<< k)).toNat = x.toNat + 2 ^ k * y.toNat := by
  have hy : y.toNat * 2 ^ k < 2 ^ 32 := by
    calc y.toNat * 2 ^ k < 2 ^ n * 2 ^ k := Nat.mul_lt_mul_of_pos_right y.isLt (Nat.two_pow_pos k)
      _ = 2 ^ (k + n) := by rw [Nat.pow_add, Nat.mul_comm]
      _ ≤ 2 ^ 32 := Nat.pow_le_pow_right (by decide) hk
  rw [BitVec.toNat_or, BitVec.toNat_shiftLeft, BitVec.toNat_setWidth_of_le (by omega), Nat.shiftLeft_eq,
    Nat.mod_eq_of_lt hy, Nat.or_comm, ← Nat.shiftLeft_eq, ← Nat.shiftLeft_add_eq_or_of_lt hx, Nat.shiftLeft_eq,
    Nat.mul_comm, Nat.add_comm]

theorem State.statusWord_toNat (s : State) : s.statusWord.toNat = s.engine.bits.toNat + 4 * s.dropped.toNat := by
  have hlow : (s.engine.bits.setWidth 32).toNat = s.engine.bits.toNat := BitVec.toNat_setWidth_of_le (by decide)
  have hlt : (s.engine.bits.setWidth 32).toNat < 2 ^ 2 := hlow ▸ s.engine.bits.isLt
  rw [State.statusWord, toNat_or_shiftLeft _ hlt (by decide), hlow, BitVec.toNat_ofBool]
  rfl

theorem ErrRecord.word_toNat (e : ErrRecord) :
    e.word.toNat = e.code.bits.toNat + 16 * e.sub.toNat + 256 * e.infoA.toNat + 65536 * e.infoB.toNat := by
  have hcode : (e.code.bits.setWidth 32).toNat = e.code.bits.toNat := BitVec.toNat_setWidth_of_le (by decide)
  have hcodeLt := e.code.bits.isLt
  have hsubLt := e.sub.isLt
  have hinfoLt := e.infoA.isLt
  have hsub := toNat_or_shiftLeft (x := e.code.bits.setWidth 32) (k := 4) e.sub (by omega) (by decide)
  have hinfoA := toNat_or_shiftLeft (k := 8) e.infoA (by rw [hsub]; omega) (by decide)
  have hinfoB := toNat_or_shiftLeft (k := 16) e.infoB (by rw [hinfoA, hsub]; omega) (by decide)
  rw [ErrRecord.word, hinfoB, hinfoA, hsub, hcode]
  rfl

theorem State.distinctWord_toNat (h : s.regCount ≤ 256) : s.distinctWord.toNat = s.regCount := by
  rw [State.distinctWord, BitVec.toNat_setWidth_of_le (by decide), BitVec.toNat_ofNat, Nat.mod_eq_of_lt (by omega)]

/-- Half `lo` of BP, bit by bit (R36). -/
theorem getLsbD_halfOfBp (s : State) (lo : Nat) {i : Nat} (hi : i < 32) :
    (s.bp.extractLsb' lo 32).getLsbD i = s.blockPalette (lo + i) := by
  rw [BitVec.getLsbD_extractLsb', decide_eq_true hi, Bool.true_and, State.blockPalette]

/-- A byte read as a word is the low byte of the word it was taken from (R34, R55). -/
theorem setWidth_extractLsb'_byte (v : Word) : (v.extractLsb' 0 8).setWidth 32 = v &&& 0xFF := by
  apply BitVec.eq_of_toNat_eq
  rw [BitVec.toNat_setWidth_of_le (by decide), BitVec.extractLsb'_toNat, Nat.shiftRight_zero, BitVec.toNat_and,
    show (0xFF : Word).toNat = 2 ^ 8 - 1 from rfl, Nat.and_two_pow_sub_one_eq_mod]

/-! ### Host programs (R82) -/

/-- A pixel of a tile of the grid has its word of PIXMEM at four times its index (R23, R104). -/
theorem setTilePixMove_eq (t p : Nat) (v : Word) :
    setTilePixMove t p v = .write (BitVec.ofNat 17 (4 * tilePixel t p)) v := by
  rw [setTilePixMove, setPixMove, tilePixel, ← Nat.add_assoc]

/-! ### The obligations -/

/-- Settles O13: a reserved place is neither an output nor an input nor CMD. -/
theorem reservedOffsets : Obligations.ReservedOffsets := by
  intro s off v rest hoff
  have hp : portOf off = .reserved := portOf_reserved hoff
  have hread (u : State) : u.readValue off = 0 := State.readValue_of_not_output hp rfl
  refine ⟨hread s, fun h => ?_, fun h => ?_⟩
  · exact ⟨_, step_of_ignored_write h hp nofun rfl, s.block_takeMove rest, rfl⟩
  · obtain ⟨t, ht, hblock, -, hreads⟩ := hostReadsHaveNoSideEffects s off rest h
    rw [hread s] at hreads
    exact ⟨t, ht, hblock, hreads⟩

/-- Settles O14: RO places are STATUS and the outputs; CMD is no output; and an RW register is accepted and read. -/
theorem readOnlyWriteOnlyAndReadWriteAccess : Obligations.ReadOnlyWriteOnlyAndReadWriteAccess := by
  intro s off v rest
  refine ⟨fun hro h => ?_, fun hcmd => State.readValue_of_not_output (portOf_cmd hcmd) rfl, fun hb h =>
    ⟨fun hw => ?_, fun hw => ?_⟩⟩
  · have hplace : portOf off ≠ .cmd ∧ (portOf off).isInput = false := by
      rw [List.mem_cons, or_assoc] at hro
      rcases hro with hstatus | hout
      · rw [portOf_status hstatus]
        exact ⟨nofun, rfl⟩
      · exact Port.readOnly_of_isOutput (isOutput_portOf hout)
    exact ⟨_, step_of_ignored_write h rfl hplace.1 hplace.2, s.block_takeMove rest, rfl⟩
  · rcases hw with hdim | ⟨hlo, hhi⟩
    · have hp := portOf_gridDim hdim
      exact ⟨_, step_of_write_accepted h hb hp nofun, State.readValue_of_not_output hp rfl⟩
    · obtain ⟨k, hp⟩ := exists_portOf_eq_bgElem hlo hhi
      exact ⟨_, step_of_write_accepted h hb hp nofun,
        (State.readValue_of_not_output hp rfl).trans (State.readPort_writePort_bgElem _ v k)⟩
  · have hp := portOf_bgLen hw
    exact ⟨_, step_of_write_accepted h hb hp nofun,
      (State.readValue_of_not_output hp rfl).trans (setWidth_extractLsb'_byte v)⟩

/-- Settles O15: a read and a write depend on the offset through the place it selects. -/
theorem lowOffsetBitsAreIgnored : Obligations.LowOffsetBitsAreIgnored := by
  intro s off off' v rest hbits hdue
  have hp : portOf off = portOf off' := portOf_eq_of_word_bits hbits
  have hmoves (m : HostMove) : State.HostMoves { s with inbox := m :: rest } m rest := by
    refine ⟨rfl, ?_⟩
    simp only [State.completionDue, Bool.and_eq_false_iff, Bool.or_eq_false_iff] at hdue ⊢
    exact hdue.imp_right fun h => ⟨h.1, rfl⟩
  rw [step_of_host (hmoves _), step_of_host (hmoves _), step_of_host (hmoves _), step_of_host (hmoves _)]
  constructor
  · simp only [State.hostMove, State.hostWrite, hp]
    rfl
  · simp only [State.hostMove, State.hostRead, State.readValue, hp]
    rfl

/-- Settles O16: an offset below 0x10000 is a word of PIXMEM, which the accepted write stores. -/
theorem pixmemStore : Obligations.PixmemStore := by
  intro s off v rest h hb hoff
  have hp : portOf off = .pixmem (off.toNat / 4) := portOf_pixmem (by omega)
  refine ⟨_, step_of_write_accepted h hb hp nofun, rfl, ?_, ?_,
    State.sameOutside_writePort_pixmem (s.takeMove rest) v _⟩
  · rw [State.written, State.writePort, Memory.word?_writeWord_self]
    rfl
  · exact (State.readValue_of_not_output hp rfl).trans (State.pixmem_writePort_self _ v _)

/-- Settles O19: while BUSY what is no output reads its current value, and an output a free value. -/
theorem readsWhileBusy : Obligations.ReadsWhileBusy := by
  intro s off hb
  refine ⟨fun hw => ?_, fun hw => ?_, fun hw => ?_, fun hw => ?_, fun k hw => ?_, fun hw => ?_⟩
  · have hread : s.readValue off = s.statusWord := State.readValue_of_not_output (portOf_status hw) rfl
    refine ⟨?_, hread⟩
    have hbits : s.engine.bits.toNat = 1 := by rw [hb]; rfl
    rw [hread, s.statusWord_toNat, hbits]
    omega
  · exact State.readValue_of_not_output (portOf_pixmem hw) rfl
  · exact State.readValue_of_not_output (portOf_gridDim hw) rfl
  · exact State.readValue_of_not_output (portOf_bgLen hw) rfl
  · exact (State.readValue_of_not_output (portOf_bgElem hw) rfl).trans (s.readPort_bgElem k)
  · exact ⟨State.readValue_of_output hb (isOutput_portOf hw), fun rest h => ⟨_, step_of_host h, rfl⟩⟩

/-- Settles O20: the fields of the two words do not overlap, so each word is their weighted sum. -/
theorem statusAndErrorWords : Obligations.StatusAndErrorWords := by
  intro s hb
  have hread {o : Offset} {p : Port} (hp : portOf o = p) : s.readValue o = s.readPort p :=
    State.readValue_of_not_busy hb hp
  refine ⟨?_, ?_, hread (p := .errCmd) (by decide)⟩
  · rw [hread (p := .status) (by decide), State.readPort, s.statusWord_toNat]
    cases s.engine <;> rfl
  · rw [hread (p := .err) (by decide), State.readPort, s.err.word_toNat]
    cases s.err.code <;> rfl

/-- Settles O21: each of the views is wide enough for what it shows. -/
theorem viewsOfRegistryResultAndPalettes : Obligations.ViewsOfRegistryResultAndPalettes := by
  intro s hb hcount
  have hread {o : Offset} {p : Port} (hp : portOf o = p) : s.readValue o = s.readPort p :=
    State.readValue_of_not_busy hb hp
  refine ⟨?_, State.readValue_ptLen hb hcount, ?_, fun i hi => ?_, fun i hi => ?_⟩
  · rw [hread (p := .distinct) (by decide)]
    exact State.distinctWord_toNat hcount
  · rw [hread (p := .result) (by decide)]
    exact BitVec.toNat_setWidth_of_le (by decide)
  · rw [hread (p := .bpLo) (by decide), State.readPort, State.bpLoWord, getLsbD_halfOfBp s 0 hi, Nat.zero_add]
  · rw [hread (p := .bpHi) (by decide)]
    exact getLsbD_halfOfBp s 32 hi

/-- Settles O57: the offset of the move is that of the pixel's word, below the end of PIXMEM. -/
theorem setTilePixWritesTheTilePixel : Obligations.SetTilePixWritesTheTilePixel := by
  intro t p v ht hp
  have hlt : tilePixel t p < 0x4000 := tilePixel_lt ht hp
  refine ⟨_, setTilePixMove_eq t p v, ?_⟩
  rw [portOf_ofNat rfl (by omega), portOfWord, if_pos hlt]

end Sys2Proof.Machine
end

section
/-! The grid (R104, R152, R160): its pixels belong to tiles, its tiles to blocks and its blocks to super-blocks, each to
exactly one; and the two bits of a pattern entry give back the slot of the pixel (R135). -/

namespace Sys2Proof.Machine

variable {s : State}

/-! ### Partitions of the grid -/

/-- The tile of a pixel of the grid, and the pixel's place in it (R104). -/
theorem tilePixel_inverse (i : Nat) :
    tilePixel (16 * (i / 1024) + i % 128 / 8) (8 * (i / 128 % 8) + i % 8) = i := by
  unfold tilePixel
  omega

theorem tilePixel_injective {t p t' p' : Nat} (ht : t < 256) (hp : p < 64) (ht' : t' < 256) (hp' : p' < 64)
    (h : tilePixel t p = tilePixel t' p') : t = t' ∧ p = p' := by
  unfold tilePixel at h
  omega

theorem mem_blockTiles {b t : Nat} :
    t ∈ blockTiles b ↔ t = 32 * (b / 8) + 2 * (b % 8) ∨ t = 32 * (b / 8) + 2 * (b % 8) + 1 ∨
      t = 32 * (b / 8) + 2 * (b % 8) + 16 ∨ t = 32 * (b / 8) + 2 * (b % 8) + 17 := by
  simp [blockTiles_eq]

theorem mem_superBlocks {k b : Nat} :
    b ∈ superBlocks k ↔ b = 16 * (k / 4) + 2 * (k % 4) ∨ b = 16 * (k / 4) + 2 * (k % 4) + 1 ∨
      b = 16 * (k / 4) + 2 * (k % 4) + 8 ∨ b = 16 * (k / 4) + 2 * (k % 4) + 9 := by
  simp [superBlocks_eq]

/-! ### Bits as numbers -/

/-- A bit of a byte as a number. -/
theorem toNat_div_two_pow_mod_two (x : Byte) (k : Nat) : x.toNat / 2 ^ k % 2 = (x.getLsbD k).toNat := by
  rw [BitVec.getLsbD, Nat.toNat_testBit]

theorem toNat_eq_bits (x : BitVec 2) : x.toNat = (x.getLsbD 1).toNat * 2 + (x.getLsbD 0).toNat := by
  revert x
  decide

/-! ### The obligations -/

/-- Settles O24: the tile and the place of a pixel are computed from its index. -/
theorem tileExtraction : Obligations.TileExtraction := by
  refine ⟨fun s t p hp => s.tile_pixel t hp, fun i hi => ?_⟩
  have ht : 16 * (i / 1024) + i % 128 / 8 < 256 := by omega
  have hp : 8 * (i / 128 % 8) + i % 8 < 64 := by omega
  refine ⟨_, _, ht, hp, tilePixel_inverse i, fun t' p' ht' hp' h => ?_⟩
  exact tilePixel_injective ht' hp' ht hp (h.trans (tilePixel_inverse i).symm)

/-- Settles O34: the block of a tile is that of the tile's row and column halved, and so for a super-block. -/
theorem blocksAndSuperBlocksPartition : Obligations.BlocksAndSuperBlocksPartition := by
  refine ⟨fun t ht => ⟨8 * (t / 32) + t % 16 / 2, by omega, ?_, fun b' hb' hmem => ?_⟩,
    fun b hb => ⟨4 * (b / 16) + b % 8 / 2, by omega, ?_, fun k' hk' hmem => ?_⟩⟩
  · rw [mem_blockTiles]
    omega
  · rw [mem_blockTiles] at hmem
    omega
  · rw [mem_superBlocks]
    omega
  · rw [mem_superBlocks] at hmem
    omega

/-- Settles O31: the bits of the two planes are the bits of the slot, and R101 gives the slot of each colour. -/
theorem patternEntryRoundTrip : Obligations.PatternEntryRoundTrip := by
  intro colours T cl r c hr hc hpixel n
  have hn : cl.slot.toNat = n := by
    simp only [n, toNat_div_two_pow_mod_two]
    rw [getLsbD_patternByte_high colours T hc, getLsbD_patternByte_low colours T hr hc, hpixel, colours.slot_pix]
    exact toNat_eq_bits cl.slot
  rw [← hn]
  refine ⟨rfl, ?_⟩
  cases cl <;> decide

end Sys2Proof.Machine
end

section
/-! The outcomes of the stage commands VALIDATE, REGISTER, CLASSIFY and of CLEAR (R107, R120, R150, R172), what each command
leaves as it was (R251), and the errors and faults that commands raise (R45, R200). -/

namespace Sys2Proof.Machine

variable {s t : State} {i : Instr}

/-! ### The checks, by the state they are made in -/

theorem exec_of_checkOf_fault {f : Fault} (h : checkOf i s = some (.fault f)) : exec i s = .fault f := by
  rw [exec_eq_guarded, h, guarded_fault]

theorem State.requireDim_or_of_dimensionsOk (h : s.dimensionsOk) (x : Option Stop) : s.requireDim.or x = x := by
  rw [s.requireDim_eq_none.mpr h, Option.none_or]

theorem State.requireDim_or_of_not_dimensionsOk (h : ¬ s.dimensionsOk) (x : Option Stop) :
    s.requireDim.or x = some (.error ⟨.dimension, 0, 0, 0⟩) := by
  rw [State.requireDim_of_not_dimensionsOk h, Option.some_or]

/-- R45 (log 3, log 4): reading a tile with an unwritten word faults on one of its unwritten words. -/
theorem State.requireWritten_of_unwritten {n : Nat} (h : ¬ s.TileWritten n) :
    ∃ p < 64, s.written (tilePixel n p) = false ∧
      s.requireWritten n = some (.fault (.unwrittenInput (tilePixel n p))) := by
  cases hx : s.requireWritten n with
  | none => exact absurd ((s.requireWritten_eq_none n).mp hx) h
  | some x =>
    obtain ⟨p, hp, hw, rfl⟩ := s.requireWritten_eq_some hx
    exact ⟨p, hp, hw, rfl⟩

/-- Of a list of tiles, the first that does not pass decides (R208). -/
theorem State.requireAllValid_of_first {ts before after : List Nat} {n : Nat} {x : Stop} (hts : ts = before ++ n :: after)
    (hbefore : ∀ u ∈ before, s.TileWritten u ∧ s.TileValid u) (h : s.requireValid n = some x) :
    s.requireAllValid ts = some x :=
  s.requireAllValid_eq_some.mpr ⟨before, n, after, hts, h, hbefore⟩

/-! ### VALIDATE (R107) -/

theorem checkOf_validate (h : s.dimensionsOk) (a : BitVec 8) : checkOf (.validate a) s = s.requireWritten a.toNat :=
  State.requireDim_or_of_dimensionsOk h _

theorem exec_validate_of_written {a : BitVec 8} (hd : s.dimensionsOk) (hw : s.TileWritten a.toNat) :
    exec (.validate a) s = .next (s.finish (boolResult (validTile s.colours (s.tile a.toNat)))) :=
  exec_of_checkOf_none ((checkOf_validate hd a).trans ((s.requireWritten_eq_none _).mpr hw))

/-! ### REGISTER (R120) -/

theorem State.sameOutside_registerTile (s : State) (n : Nat) : s.SameOutside (s.registerTile n) (ntBase + n) 1 := by
  intro a ha
  rw [State.registerTile_mem, Memory.read_write, if_neg (by omega)]

theorem checkOf_register (h : s.dimensionsOk) (a : BitVec 8) :
    checkOf (.register a) s = (s.requireValid a.toNat).or (s.requireRoom a.toNat) := by
  rw [checkOf, State.requireDim_or_of_dimensionsOk h]

theorem checkOf_register_of_valid {a : BitVec 8} (hd : s.dimensionsOk) (hw : s.TileWritten a.toNat)
    (hv : s.TileValid a.toNat) : checkOf (.register a) s = s.requireRoom a.toNat := by
  rw [checkOf_register hd, (s.requireValid_eq_none _).mpr ⟨hw, hv⟩, Option.none_or]

theorem checkOf_register_of_invalid {a : BitVec 8} {x : Stop} (hd : s.dimensionsOk)
    (h : s.requireValid a.toNat = some x) : checkOf (.register a) s = some x := by
  rw [checkOf_register hd, h, Option.some_or]

/-- A REGISTER that passes its checks, by the ID of the tile and whether it is new. -/
theorem exec_register_of_idOf {a : BitVec 8} {isNew : Bool} {id : Nat} (hd : s.dimensionsOk)
    (hw : s.TileWritten a.toNat) (hv : s.TileValid a.toNat) (hid : s.idOf a.toNat = (isNew, id))
    (hroom : ¬ (isNew = true ∧ 256 ≤ s.regCount)) :
    ∃ u, exec (.register a) s = .next u ∧
      u = { s with
        mem := u.mem, regTile := if isNew then s.regTile ++ [s.tile a.toNat] else s.regTile
        result := registerResult isNew id, engine := .done } ∧
      u.nt a.toNat = BitVec.ofNat 8 id ∧ s.SameOutside u (ntBase + a.toNat) 1 := by
  have hcheck : checkOf (.register a) s = none := by
    rw [checkOf_register_of_valid hd hw hv, State.requireRoom_eq_none, hid]
    exact hroom
  refine ⟨_, exec_of_checkOf_none hcheck, ?_, ?_, s.sameOutside_registerTile a.toNat⟩
  · simp only [effectOf, State.registerTile, hid]
    rfl
  · rw [effectOf, State.nt_finish, State.nt_registerTile, if_pos rfl, hid]

theorem setWidth_ofNat_of_lt {id : Nat} (h : id < 256) : (BitVec.ofNat 8 id).setWidth 9 = BitVec.ofNat 9 id := by
  apply BitVec.eq_of_toNat_eq
  rw [BitVec.toNat_setWidth_of_le (by decide), BitVec.toNat_ofNat, BitVec.toNat_ofNat]
  omega

theorem registerResult_false {id : Nat} (h : id < 256) : registerResult false id = BitVec.ofNat 9 id := by
  rw [registerResult, setWidth_ofNat_of_lt h]
  exact BitVec.zero_or

/-- Bit 8, which says that the tile is new, stands above the ID (R33). -/
theorem registerResult_true {id : Nat} (h : id < 256) : registerResult true id = BitVec.ofNat 9 (256 + id) := by
  have hor : 2 ^ 8 * 1 + id = 2 ^ 8 * 1 ||| id := Nat.two_pow_add_eq_or_of_lt h 1
  apply BitVec.eq_of_toNat_eq
  rw [registerResult, setWidth_ofNat_of_lt h, BitVec.toNat_or, BitVec.toNat_ofNat, BitVec.toNat_ofNat,
    Nat.mod_eq_of_lt (by omega), Nat.mod_eq_of_lt (by omega)]
  exact hor.symm

/-! ### CLASSIFY (R150) -/

theorem checkOf_classify {b : BitVec 8} (hb : b.toNat < 64) :
    checkOf (.classify b) s = s.requireDim.or (s.requireAllValid (blockTiles b.toNat)) := by
  rw [checkOf, requireBelow_eq_none.mpr hb, Option.none_or]

theorem checkOf_classify_of_dimensionsOk {b : BitVec 8} (hb : b.toNat < 64) (hd : s.dimensionsOk) :
    checkOf (.classify b) s = s.requireAllValid (blockTiles b.toNat) := by
  rw [checkOf_classify hb, State.requireDim_or_of_dimensionsOk hd]

theorem checkOf_classify_of_le {b : BitVec 8} (hb : 64 ≤ b.toNat) :
    checkOf (.classify b) s = some (.error ⟨.illegalOperand, 0, b, 0⟩) := by
  rw [checkOf, requireBelow_eq_some.mpr ⟨hb, rfl⟩, Option.some_or, Option.some_or]

/-! ### CLEAR (R172) -/

/-- CLEAR leaves every byte outside NT, AT and PT. -/
theorem State.read_clearEngine {a : Nat}
    (h : a < ntBase ∨ (ntBase + 256 ≤ a ∧ a < atBase) ∨ (atBase + 16 ≤ a ∧ a < ptBase) ∨ ptBase + 4096 ≤ a) :
    Memory.read s.clearEngine.mem a = Memory.read s.mem a := by
  simp only [State.clearEngine_mem, Memory.read_forget, ntBase, atBase, ptBase] at h ⊢
  rw [if_neg (by omega), if_neg (by omega), if_neg (by omega)]

/-- CLEAR makes every byte of NT, AT and PT zero. -/
theorem State.byte_clearEngine {a : Nat}
    (h : (ntBase ≤ a ∧ a < ntBase + 256) ∨ (atBase ≤ a ∧ a < atBase + 16) ∨ (ptBase ≤ a ∧ a < ptBase + 4096)) :
    Memory.byte s.clearEngine.mem a = 0 := by
  rw [State.clearEngine_mem, Memory.byte_forget, Memory.byte_forget, Memory.byte_forget]
  rcases h with h | h | h <;> simp [h]

/-! ### What each command leaves as it was -/

/-- Error entry, with the record it wrote as a field of the next state (R206). -/
theorem State.enterError_frame (s : State) (r : ErrRecord) :
    s.enterError r = { s with err := (s.enterError r).err, errCmd := s.inflight, engine := .error } := rfl

/-- CHKDIM, VALIDATE and PACK8 write RESULT and STATE alone. -/
theorem effectOf_eq_finish (h : i = .chkdim ∨ i = .pack8 ∨ ∃ a, i = .validate a) (s : State) :
    ∃ r, effectOf i s = s.finish r := by
  rcases h with rfl | rfl | ⟨a, rfl⟩
  · exact ⟨_, rfl⟩
  · exact ⟨_, rfl⟩
  · exact ⟨_, rfl⟩

/-- REGISTER, ENCODE and PACKATTR write memory inside the bytes they store, and the registry by REGISTER alone. -/
theorem effectOf_storing_frame (h : ∃ a, i = .register a ∨ i = .encode a ∨ i = .packattr a) (s : State) :
    effectOf i s = { s with
      mem := (effectOf i s).mem, regTile := (effectOf i s).regTile, result := (effectOf i s).result, engine := .done } ∧
    ((∀ a, i ≠ .register a) → (effectOf i s).regTile = s.regTile) ∧
    s.SameOutside (effectOf i s) (storedBytes i).1 (storedBytes i).2 := by
  obtain ⟨a, rfl | rfl | rfl⟩ := h
  · exact ⟨rfl, fun hne => absurd rfl (hne a), s.sameOutside_registerTile a.toNat⟩
  · exact ⟨rfl, fun _ => s.encodeTile_regTile a.toNat, s.sameOutside_encodeTile a.toNat⟩
  · exact ⟨rfl, fun _ => s.packSuper_regTile a.toNat, s.sameOutside_packSuper a.toNat⟩

/-- CLASSIFY writes one bit of BP, RESULT and STATE. -/
theorem effectOf_classify_frame (b : BitVec 8) (s : State) :
    effectOf (.classify b) s = { s with
      bp := (effectOf (.classify b) s).bp, result := (effectOf (.classify b) s).result, engine := .done } ∧
    ∀ j, j ≠ b.toNat → (effectOf (.classify b) s).blockPalette j = s.blockPalette j := by
  refine ⟨by apply State.ext <;> simp [effectOf], fun j hj => ?_⟩
  rw [effectOf, State.blockPalette_finish, State.blockPalette_classifyBlock, if_neg fun h => hj h.1]

theorem effectOf_classify_result (b : BitVec 8) (s : State) :
    (effectOf (.classify b) s).result =
      (BitVec.ofBool ((effectOf (.classify b) s).blockPalette b.toNat)).setWidth 9 := by
  rw [effectOf, State.finish_result, State.blockPalette_finish, boolResult]

/-! ### The obligations -/

/-- Settles O26: with right dimensions VALIDATE checks that the tile is written, and its effect is the answer. -/
theorem validateAnswersValidity : Obligations.ValidateAnswersValidity := by
  intro s a
  refine ⟨fun hd hw hv => ?_, fun hd hw hv => ?_, fun hd => ?_, fun hd hw => ?_⟩
  · rw [exec_validate_of_written hd hw, (validTile_tile s _).mpr hv]
    rfl
  · have hfalse : validTile s.colours (s.tile a.toNat) = false :=
      Bool.eq_false_iff.mpr fun htrue => hv ((validTile_tile s _).mp htrue)
    rw [exec_validate_of_written hd hw, hfalse]
    rfl
  · exact exec_of_checkOf_error (State.requireDim_or_of_not_dimensionsOk hd _)
  · obtain ⟨p, hp, hword, hstop⟩ := State.requireWritten_of_unwritten hw
    exact ⟨p, hp, hword, exec_of_checkOf_fault ((checkOf_validate hd a).trans hstop)⟩

/-- Settles O27: the answer is the validity of the tile, which is made of the 64 words. -/
theorem validityReadsOnlyItsTile : Obligations.ValidityReadsOnlyItsTile := by
  intro s s' a hd hd' hcolours hwords
  have htile : s.tile a.toNat = s'.tile a.toNat := Tile.ext_pixel.mpr fun p hp => by
    rw [State.tile_pixel _ _ hp, State.tile_pixel _ _ hp]
    exact (hwords p hp).2.2
  have hw : s.TileWritten a.toNat := fun p hp => (hwords p hp).1
  have hw' : s'.TileWritten a.toNat := fun p hp => (hwords p hp).2.1
  refine ⟨_, _, exec_validate_of_written hd hw, exec_validate_of_written hd' hw', ?_⟩
  rw [State.finish_result, State.finish_result, hcolours, htile]

/-- Settles O28: the checks of REGISTER in their order, and its effect by the ID of the tile. -/
theorem registerLooksUpOrInserts : Obligations.RegisterLooksUpOrInserts := by
  intro s a
  have ha : BitVec.ofNat 8 a.toNat = a := by rw [BitVec.ofNat_toNat, BitVec.setWidth_eq]
  refine ⟨fun hd => ?_, fun hd hw => ?_, fun p hd hw hbad => ?_, fun id hd hw hv hid hget hfirst => ?_,
    fun hd hw hv hnew hroom => ?_, fun hd hw hv hnew hfull => ?_⟩
  · apply exec_of_checkOf_error
    rw [checkOf, State.requireDim_or_of_not_dimensionsOk hd, Option.some_or]
  · obtain ⟨p, hp, hword, hstop⟩ := State.requireValid_of_unwritten hw
    exact ⟨p, hp, hword, exec_of_checkOf_fault (checkOf_register_of_invalid hd hstop)⟩
  · have hstop := State.requireValid_of_firstBad hw hbad
    rw [ha] at hstop
    exact exec_of_checkOf_error (checkOf_register_of_invalid hd hstop)
  · have hfound : s.idOf a.toNat = (false, id) := State.idOf_found (State.findTile_eq_some.mpr ⟨hget, hfirst⟩)
    rw [← registerResult_false hid]
    exact exec_register_of_idOf hd hw hv hfound (by simp)
  · rw [← registerResult_true hroom]
    exact exec_register_of_idOf hd hw hv (State.idOf_new hnew) (by omega)
  · apply exec_of_checkOf_error
    rw [checkOf_register_of_valid hd hw hv, State.requireRoom, State.idOf_new hnew, if_pos ⟨rfl, hfull⟩, ha]

/-- Settles O33: the checks of CLASSIFY in their order, over the tiles of the block, and its effect. -/
theorem classifyFindsMarkerPixels : Obligations.ClassifyFindsMarkerPixels := by
  intro s b t0 ts
  have hts : blockTiles b.toNat = ts := blockTiles_eq b.toNat
  refine ⟨fun hb => exec_of_checkOf_error (checkOf_classify_of_le hb), fun hb hd => ?_,
    fun before n after hb hd hsplit hbefore hw => ?_, fun before n after p hb hd hsplit hbefore hw hbad => ?_,
    fun hb hd hpass => ?_⟩
  · apply exec_of_checkOf_error
    rw [checkOf_classify hb, State.requireDim_or_of_not_dimensionsOk hd]
  · obtain ⟨p, hp, hword, hstop⟩ := State.requireValid_of_unwritten hw
    refine ⟨p, hp, hword, exec_of_checkOf_fault ?_⟩
    rw [checkOf_classify_of_dimensionsOk hb hd]
    exact State.requireAllValid_of_first (hts.trans hsplit) hbefore hstop
  · apply exec_of_checkOf_error
    rw [checkOf_classify_of_dimensionsOk hb hd]
    exact State.requireAllValid_of_first (hts.trans hsplit) hbefore (State.requireValid_of_firstBad hw hbad)
  · have hcheck : checkOf (.classify b) s = none := by
      rw [checkOf_classify_of_dimensionsOk hb hd, s.requireAllValid_eq_none, hts]
      exact hpass
    obtain ⟨hframe, hbits⟩ := effectOf_classify_frame b s
    refine ⟨_, exec_of_checkOf_none hcheck, effectOf_classify_result b s ▸ hframe, ?_, hbits⟩
    rw [effectOf, State.blockPalette_finish, State.blockPalette_classifyBlock, if_pos ⟨rfl, hb⟩, s.classifyTiles_iff, hts]

/-- Settles O37: CLEAR has no check, and its effect forgets NT, AT and PT. -/
theorem clearResetsTheEngine : Obligations.ClearResetsTheEngine := by
  intro s
  refine ⟨s.clearEngine, rfl, rfl, fun k hk => ?_, fun i hi => ?_, fun k hk => ?_, fun a ha => State.read_clearEngine ha⟩
  · exact State.byte_clearEngine (.inl (by omega))
  · exact State.byte_clearEngine (.inr (.inr (by omega)))
  · exact State.byte_clearEngine (.inr (.inl (by omega)))

/-- Settles O46: a command enters ERROR by a check, and the code tells the commands with that check. -/
theorem errorCodesByCommand : Obligations.ErrorCodesByCommand := by
  intro i s t hnext hs ht
  obtain ⟨r, hcheck, rfl⟩ := exec_enters_error hnext hs ht
  rw [State.enterError_err]
  rcases checkOf_error hcheck with ⟨hc, hi⟩ | ⟨hc, hi⟩ | ⟨hc, hi⟩ | ⟨hc, hi⟩ | ⟨hc, hi⟩ <;> rw [hc]
  · exact ⟨fun _ => hi, nofun, nofun, nofun, nofun, nofun, nofun⟩
  · exact ⟨nofun, fun _ => hi, nofun, nofun, nofun, nofun, nofun⟩
  · exact ⟨nofun, nofun, fun _ => hi, nofun, nofun, nofun, nofun⟩
  · exact ⟨nofun, nofun, nofun, fun _ => hi, nofun, nofun, nofun⟩
  · exact ⟨nofun, nofun, nofun, nofun, fun _ => hi, nofun, nofun⟩

/-- Settles O48: only a check of the command can fault. -/
theorem faultsAreUnwrittenInput : Obligations.FaultsAreUnwrittenInput := by
  intro i s f h
  rcases exec_cases i s with ⟨-, he⟩ | ⟨r, -, he⟩ | ⟨f', hcheck, he⟩ <;> cases he.symm.trans h
  exact checkOf_fault hcheck

/-- Settles O50: neither the effect of a command nor error entry writes an input or the host's side of the model. -/
theorem engineNeverWritesInputs : Obligations.EngineNeverWritesInputs := by
  intro i s t hnext
  rcases exec_next hnext with ⟨-, rfl⟩ | ⟨r, -, rfl⟩
  · exact ⟨(effectOf_samePixels i s).1, effectOf_gridDim i s, effectOf_bgLen i s, effectOf_bgElem i s,
      effectOf_colours i s, effectOf_inflight i s, effectOf_inbox i s, effectOf_reads i s⟩
  · exact ⟨fun _ _ => rfl, rfl, rfl, rfl, rfl, rfl, rfl, rfl⟩

/-- Settles O51: the effect of the three is to finish with a RESULT. -/
theorem frameOfRegisterOnlyCommands : Obligations.FrameOfRegisterOnlyCommands := by
  intro i s t hi hnext
  rcases exec_next hnext with ⟨-, rfl⟩ | ⟨r, -, rfl⟩
  · obtain ⟨r, hr⟩ := effectOf_eq_finish hi s
    rw [hr]
    exact .inl rfl
  · exact .inr (s.enterError_frame r)

/-- Settles O52: the effect of the three stores in the bytes of R120, R133 and R162. -/
theorem frameOfStoringCommands : Obligations.FrameOfStoringCommands := by
  intro i s t hi hnext
  rcases exec_next hnext with ⟨-, rfl⟩ | ⟨r, -, rfl⟩
  · exact .inl (effectOf_storing_frame hi s)
  · exact .inr (s.enterError_frame r)

/-- Settles O53: the effect of CLASSIFY is one bit of BP. -/
theorem frameOfClassify : Obligations.FrameOfClassify := by
  intro b s t hnext
  rcases exec_next hnext with ⟨-, rfl⟩ | ⟨r, -, rfl⟩
  · exact .inl (effectOf_classify_frame b s)
  · exact .inr (s.enterError_frame r)

end Sys2Proof.Machine
end

section
/-! RUN (45_control.md, R173 to R175): when it completes and what stops it, and its registry, nametable, palettes and
attributes, which rest on the grid alone (R124). -/

namespace Sys2Proof.Machine

variable {s s' u : State}

/-! ### Phase 1 -/

theorem checkOf_run_of_dimensionsOk (h : s.dimensionsOk) : checkOf .run s = s.requireAllValid (List.range 256) :=
  State.requireDim_or_of_dimensionsOk h _

/-- The tiles before tile `n`, in the order RUN checks them. -/
theorem exists_range_256_eq {n : Nat} (h : n < 256) : ∃ after, List.range 256 = List.range n ++ n :: after := by
  obtain ⟨d, hd⟩ : ∃ d, 256 = n + (d + 1) := ⟨255 - n, by omega⟩
  rw [hd, List.range_add, List.range_succ_eq_map, List.map_cons, Nat.add_zero]
  exact ⟨_, rfl⟩

/-- RUN stops at the lowest tile that does not pass (R173). -/
theorem checkOf_run_of_first {n : Nat} {x : Stop} (hd : s.dimensionsOk) (hn : n < 256)
    (hbefore : ∀ k < n, s.TileWritten k ∧ s.TileValid k) (h : s.requireValid n = some x) :
    checkOf .run s = some x := by
  obtain ⟨after, hsplit⟩ := exists_range_256_eq hn
  rw [checkOf_run_of_dimensionsOk hd]
  exact State.requireAllValid_of_first hsplit (fun k hk => hbefore k (List.mem_range.mp hk)) h

theorem exec_run_of_gridOk (h : s.GridOk) :
    exec .run s = .next (s.pipeline.finish (BitVec.ofNat 9 s.pipeline.regCount)) :=
  exec_of_checkOf_none (i := .run) (checkOf_run_eq_none.mpr h)

/-! ### The registry and the nametable after RUN (R124) -/

theorem State.startRun_registered (s : State) : s.startRun.Registered s.startRun.registerAll 256 :=
  State.registerAll_registered s.startRun_regTile

theorem State.pipeline_nodup (s : State) : s.pipeline.regTile.Nodup := by
  rw [s.pipeline_regTile]
  exact s.startRun_registered.nodup

/-- NT[k] is the ID of tile `k`. -/
theorem State.pipeline_names {k : Nat} (hk : k < 256) :
    s.pipeline.regTile[(s.pipeline.nt k).toNat]? = some (s.tile k) := by
  rw [s.pipeline_regTile, s.nt_pipeline hk, s.startRun_registered.names k hk, s.startRun_samePixels.tile hk]

theorem State.pipeline_used {id : Nat} (h : id < s.pipeline.regCount) :
    ∃ k < 256, (s.pipeline.nt k).toNat = id := by
  rw [State.regCount, s.pipeline_regTile] at h
  obtain ⟨k, hk, hid⟩ := s.startRun_registered.used id h
  exact ⟨k, hk, by rw [s.nt_pipeline hk, hid]⟩

theorem State.pipeline_steps {k : Nat} (hk : k < 256) :
    (s.pipeline.nt k).toNat = 0 ∨ ∃ j < k, (s.pipeline.nt k).toNat ≤ (s.pipeline.nt j).toNat + 1 := by
  rw [s.nt_pipeline hk]
  refine (s.startRun_registered.steps k hk).imp_right fun ⟨j, hj, hle⟩ => ⟨j, hj, ?_⟩
  rw [s.nt_pipeline (hj.trans hk)]
  exact hle

/-- Tile 0 is registered, so the registry is not empty. -/
theorem State.one_le_regCount_pipeline (s : State) : 1 ≤ s.pipeline.regCount := by
  obtain ⟨hlt, -⟩ := List.getElem?_eq_some_iff.mp (s.pipeline_names (k := 0) (by decide))
  exact Nat.one_le_of_lt hlt

/-- Equal tiles have equal IDs, since the registry holds no tile twice. -/
theorem State.tile_eq_iff_nt_pipeline {j k : Nat} (hj : j < 256) (hk : k < 256) :
    s.tile j = s.tile k ↔ s.pipeline.nt j = s.pipeline.nt k := by
  have hnames := s.pipeline_names hj
  constructor
  · intro h
    have hlt := (List.getElem?_eq_some_iff.mp hnames).1
    rw [h, ← s.pipeline_names hk] at hnames
    exact BitVec.eq_of_toNat_eq ((List.getElem?_inj hlt s.pipeline_nodup).mp hnames)
  · intro h
    rw [h, s.pipeline_names hk] at hnames
    exact (Option.some.inj hnames).symm

/-- The artifacts of a RUN that ends DONE are those of the pipeline. -/
theorem artifacts_of_run_done (hnext : exec .run s = .next u) (hdone : u.engine = .done) :
    u.regTile = s.pipeline.regTile ∧ u.regCount = s.pipeline.regCount ∧ (∀ k, u.nt k = s.pipeline.nt k) ∧
    (∀ b, u.blockPalette b = s.pipeline.blockPalette b) ∧ ∀ k, u.attr k = s.pipeline.attr k := by
  obtain rfl := eq_finish_of_run_done hnext hdone
  exact ⟨State.finish_regTile _ _, State.regCount_finish _ _, State.nt_finish _ _, State.blockPalette_finish _ _,
    State.attr_finish _ _⟩

/-- RUN writes memory, BP, the registry, RESULT and STATE, and nothing else (R173). -/
theorem State.finish_pipeline_frame (s : State) (r : BitVec 9) :
    s.pipeline.finish r = { s with
      mem := (s.pipeline.finish r).mem, bp := (s.pipeline.finish r).bp, regTile := (s.pipeline.finish r).regTile
      result := r, engine := .done } := by
  rw [State.finish_mem, State.finish_bp, State.finish_regTile]
  exact congrArg (State.finish · r) s.pipeline_eq

/-! ### RUN rests on the grid alone -/

/-- The two states hold the same grid, in the same colours. -/
structure State.SameGrid (s s' : State) : Prop where
  colours : s.colours = s'.colours
  pixels  : ∀ i < 16384, s.pixmem i = s'.pixmem i

theorem State.SameGrid.tile (h : s.SameGrid s') {k : Nat} (hk : k < 256) : s.tile k = s'.tile k :=
  Tile.ext_pixel.mpr fun p hp => by
    rw [State.tile_pixel _ _ hp, State.tile_pixel _ _ hp, h.pixels _ (tilePixel_lt hk hp)]

theorem State.SameGrid.tileValid (h : s.SameGrid s') {k : Nat} (hk : k < 256) (hv : s.TileValid k) :
    s'.TileValid k := by
  intro p hp
  rw [← h.pixels _ (tilePixel_lt hk hp), State.IsColour, ← h.colours]
  exact hv p hp

theorem State.SameGrid.classifyTiles (h : s.SameGrid s') {ts : List Nat} (hts : ∀ k ∈ ts, k < 256) :
    s.classifyTiles ts = s'.classifyTiles ts := by
  rw [Bool.eq_iff_iff, State.classifyTiles_iff, State.classifyTiles_iff, h.colours]
  refine exists_congr fun k => and_congr_right fun hk => exists_congr fun p => and_congr_right fun hp => ?_
  rw [h.pixels _ (tilePixel_lt (hts k hk) hp)]

theorem State.idOf_congr {n : Nat} (hr : s.regTile = s'.regTile) (ht : s.tile n = s'.tile n) :
    s.idOf n = s'.idOf n := by
  unfold State.idOf State.findTile State.regCount
  rw [hr, ht]

/-- Registering the same tiles in two states with the same registry gives the same registry and nametable. -/
theorem foldl_registerTile_congr (hr : s.regTile = s'.regTile) (ht : ∀ k < 256, s.tile k = s'.tile k) {n : Nat}
    (hn : n ≤ 256) :
    ((List.range n).foldl State.registerTile s).regTile = ((List.range n).foldl State.registerTile s').regTile ∧
    ∀ k < n, ((List.range n).foldl State.registerTile s).nt k = ((List.range n).foldl State.registerTile s').nt k := by
  induction n with
  | zero => exact ⟨hr, fun k hk => absurd hk (Nat.not_lt_zero k)⟩
  | succ n ih =>
    obtain ⟨ihr, ihn⟩ := ih (by omega)
    have htile : ((List.range n).foldl State.registerTile s).tile n =
        ((List.range n).foldl State.registerTile s').tile n := by
      rw [(foldl_registerTile_samePixels _ s).tile (by omega), (foldl_registerTile_samePixels _ s').tile (by omega)]
      exact ht n (by omega)
    have hid := State.idOf_congr ihr htile
    simp only [foldl_range_succ, State.registerTile_regTile, State.nt_registerTile, hid, ihr, htile]
    refine ⟨trivial, fun k hk => ?_⟩
    split
    · rfl
    · exact ihn k (by omega)

theorem State.SameGrid.registerAll (h : s.SameGrid s') :
    s.startRun.registerAll.regTile = s'.startRun.registerAll.regTile ∧
    ∀ k < 256, s.startRun.registerAll.nt k = s'.startRun.registerAll.nt k := by
  have htiles : ∀ k < 256, s.startRun.tile k = s'.startRun.tile k := fun k hk => by
    rw [s.startRun_samePixels.tile hk, s'.startRun_samePixels.tile hk, h.tile hk]
  have hempty : s.startRun.regTile = s'.startRun.regTile := rfl
  rw [State.registerAll, State.registerAll]
  exact foldl_registerTile_congr hempty htiles (Nat.le_refl 256)

theorem State.SameGrid.regTile_pipeline (h : s.SameGrid s') : s.pipeline.regTile = s'.pipeline.regTile := by
  rw [s.pipeline_regTile, s'.pipeline_regTile, h.registerAll.1]

theorem State.SameGrid.regCount_pipeline (h : s.SameGrid s') : s.pipeline.regCount = s'.pipeline.regCount :=
  congrArg List.length h.regTile_pipeline

theorem State.SameGrid.nt_pipeline (h : s.SameGrid s') {k : Nat} (hk : k < 256) :
    s.pipeline.nt k = s'.pipeline.nt k := by
  rw [s.nt_pipeline hk, s'.nt_pipeline hk, h.registerAll.2 k hk]

theorem State.SameGrid.pt_pipeline (h : s.SameGrid s') {i : Nat} (hi : i < 4096) :
    s.pipeline.pt i = s'.pipeline.pt i := by
  rw [s.pt_pipeline hi, s'.pt_pipeline hi, State.regTileAt, State.regTileAt, h.regCount_pipeline, h.regTile_pipeline,
    h.colours]

theorem State.SameGrid.bp_pipeline (h : s.SameGrid s') : s.pipeline.bp = s'.pipeline.bp := by
  apply BitVec.eq_of_getLsbD_eq
  intro b hb
  have hbit : s.pipeline.blockPalette b = s'.pipeline.blockPalette b := by
    rw [s.blockPalette_pipeline hb, s'.blockPalette_pipeline hb, h.classifyTiles fun k hk => blockTiles_lt hb hk]
  exact hbit

theorem State.SameGrid.attr_pipeline (h : s.SameGrid s') {k : Nat} (hk : k < 16) :
    s.pipeline.attr k = s'.pipeline.attr k := by
  rw [s.attr_pipeline hk, s'.attr_pipeline hk]
  unfold State.attrOf State.blockPalette
  rw [h.bp_pipeline]

/-! ### The obligations -/

/-- Settles O38: the checks of phase 1 pass, and the pipeline writes the registry, BP and memory inside NT, AT and PT. -/
theorem runCompletesOnValidGrids : Obligations.RunCompletesOnValidGrids := by
  intro s hd htiles
  refine ⟨_, exec_run_of_gridOk ⟨hd, htiles⟩, ?_, ?_, ?_, fun a ha => ?_⟩
  · rw [State.regCount_finish]
    exact s.finish_pipeline_frame _
  · rw [State.regCount_finish]
    exact s.one_le_regCount_pipeline
  · rw [State.regCount_finish]
    exact s.regCount_pipeline_le
  · rw [State.finish_mem]
    exact s.read_pipeline ha

/-- Settles O39: RUN stops in phase 1, at the dimensions or at the lowest tile that does not pass. -/
theorem runErrorsComeBeforeAnyWrite : Obligations.RunErrorsComeBeforeAnyWrite := by
  intro s
  refine ⟨fun hd => ?_, fun n hn hd hbefore hw => ?_, fun n p hd hn hbefore hw hbad => ?_⟩
  · exact exec_of_checkOf_error (i := .run) (State.requireDim_or_of_not_dimensionsOk hd _)
  · obtain ⟨p, hp, hword, hstop⟩ := State.requireValid_of_unwritten hw
    exact ⟨p, hp, hword, exec_of_checkOf_fault (checkOf_run_of_first hd hn hbefore hstop)⟩
  · exact exec_of_checkOf_error (checkOf_run_of_first hd hn hbefore (State.requireValid_of_firstBad hw hbad))

/-- Settles O40: a RUN that ends DONE is the pipeline, whose IDs are given in the order of the tiles. -/
theorem runNametable : Obligations.RunNametable := by
  intro s u hnext hdone
  obtain ⟨hreg, hcount, hnt, -, -⟩ := artifacts_of_run_done hnext hdone
  simp only [hreg, hcount, hnt]
  refine ⟨fun k hk => s.pipeline_names hk, fun j hj k hk => State.tile_eq_iff_nt_pipeline hj hk, ?_,
    fun k hpos hk => ?_, fun id hid => State.pipeline_used hid, s.one_le_regCount_pipeline, s.regCount_pipeline_le⟩
  · rcases s.pipeline_steps (k := 0) (by decide) with hzero | ⟨j, hj, -⟩
    · exact BitVec.eq_of_toNat_eq hzero
    · exact absurd hj (Nat.not_lt_zero j)
  · rcases s.pipeline_steps hk with hzero | hstep
    · refine ⟨0, hpos, ?_⟩
      rw [hzero]
      exact Nat.zero_le _
    · exact hstep

/-- Settles O42: a RUN that ends DONE is the pipeline, which classifies every block and then packs every super-block. -/
theorem runPalettesAndAttributes : Obligations.RunPalettesAndAttributes := by
  intro s u hnext hdone
  obtain ⟨-, -, -, hbp, hattr⟩ := artifacts_of_run_done hnext hdone
  simp only [hbp, hattr]
  refine ⟨fun b hb => ?_, fun k hk b0 b1 b2 b3 hblocks => ?_⟩
  · rw [s.blockPalette_pipeline hb, s.classifyTiles_iff]
  · rw [s.attr_pipeline hk, State.attrOf, attrByte_toNat, hblocks]
    rfl

/-- Settles O44: every artifact of the pipeline is a function of the grid and the colours. -/
theorem runDependsOnTheGridAlone : Obligations.RunDependsOnTheGridAlone := by
  intro s s' hd hd' hcolours hwords hvalid
  have hgrid : s.SameGrid s' := ⟨hcolours, fun i hi => (hwords i hi).2.2⟩
  have hok : s.GridOk := ⟨hd, fun k hk => ⟨fun p hp => (hwords _ (tilePixel_lt hk hp)).1, hvalid k hk⟩⟩
  have hok' : s'.GridOk :=
    ⟨hd', fun k hk => ⟨fun p hp => (hwords _ (tilePixel_lt hk hp)).2.1, hgrid.tileValid hk (hvalid k hk)⟩⟩
  refine ⟨_, _, exec_run_of_gridOk hok, exec_run_of_gridOk hok', ?_, ?_, ?_, fun k hk => ?_, fun i hi => ?_,
    fun k hk => ?_⟩
  · rw [State.finish_regTile, State.finish_regTile, hgrid.regTile_pipeline]
  · rw [State.finish_result, State.finish_result, hgrid.regCount_pipeline]
  · rw [State.finish_bp, State.finish_bp, hgrid.bp_pipeline]
  · rw [State.nt_finish, State.nt_finish, hgrid.nt_pipeline hk]
  · rw [State.pt_finish, State.pt_finish, hgrid.pt_pipeline hi]
  · rw [State.attr_finish, State.attr_finish, hgrid.attr_pipeline hk]

end Sys2Proof.Machine
end

section
/-! The invariant of the machine (`State.Inv`): it holds at reset, and every command and every move of the host keeps it. -/

namespace Sys2Proof.Machine

variable {m : Memory} {s t : State} {i : Instr}

/-! ### Memory: canonical, inside the map, and the bytes of AT with bits 1, 3, 5 and 7 zero -/

/-- The offset lies in PIXMEM, NT, AT or PT (R52). -/
def InMap (a : Nat) : Prop :=
  a < 0x10000 ∨ (ntBase ≤ a ∧ a < ntBase + 256) ∨ (atBase ≤ a ∧ a < atBase + 16) ∨ (ptBase ≤ a ∧ a < ptBase + 4096)

/-- What the invariant says of memory. -/
structure Memory.Ok (m : Memory) : Prop where
  canonical  : Memory.wf m = true
  mapped     : ∀ cell ∈ m, InMap cell.1
  attributes : ∀ k < 16, Memory.byte m (atBase + k) &&& 0xAA = 0

theorem State.Inv.memory (h : s.Inv) : s.mem.Ok := ⟨h.canonical, h.mapped, h.attributes⟩

theorem State.inv_of_memory (hm : s.mem.Ok) (hr : s.RegistryOk) (he : s.ErrorOk) : s.Inv :=
  ⟨hm.canonical, hm.mapped, hr, he, hm.attributes⟩

theorem Memory.ok_nil : Memory.Ok [] where
  canonical := rfl
  mapped _ hc := absurd hc List.not_mem_nil
  attributes k _ := by rw [Memory.byte_nil]; rfl

/-- A store inside the map keeps memory so, when what it stores in AT has bits 1, 3, 5 and 7 zero (R161). -/
theorem Memory.Ok.write {a : Nat} {b : Byte} (h : m.Ok) (ha : InMap a)
    (hb : atBase ≤ a ∧ a < atBase + 16 → b &&& 0xAA = 0) : (Memory.write m a b).Ok where
  canonical := Memory.wf_write m a b h.canonical
  mapped cell hc := by
    rcases Memory.mem_write hc with rfl | hold
    · exact ha
    · exact h.mapped cell hold
  attributes k hk := by
    rw [Memory.byte_write]
    split
    · next heq => exact hb (by omega)
    · exact h.attributes k hk

/-- The store of a range inside the map and outside AT keeps memory so. -/
theorem Memory.Ok.writeRange {base n : Nat} {f : Nat → Byte} (h : m.Ok)
    (hr : ∀ k < n, InMap (base + k) ∧ ¬ (atBase ≤ base + k ∧ base + k < atBase + 16)) :
    (Memory.writeRange m base n f).Ok := by
  induction n with
  | zero => exact h
  | succ n ih =>
    obtain ⟨hin, hout⟩ := hr n (by omega)
    rw [Memory.writeRange_succ]
    exact (ih fun k hk => hr k (by omega)).write hin fun hat => absurd hat hout

theorem Memory.Ok.forget (h : m.Ok) (base n : Nat) : (Memory.forget m base n).Ok where
  canonical := Memory.wf_forget m base n h.canonical
  mapped cell hc := h.mapped cell (Memory.mem_forget hc)
  attributes k hk := by
    rw [Memory.byte_forget]
    split
    · rfl
    · exact h.attributes k hk

/-! ### Memory under the operations of the commands -/

theorem State.memOk_registerTile {n : Nat} (h : s.mem.Ok) (hn : n < 256) : (s.registerTile n).mem.Ok :=
  h.write (by simp only [InMap]; omega) fun hat => by simp only [ntBase, atBase] at hat; omega

theorem State.memOk_encodeTile {id : Nat} (h : s.mem.Ok) (hid : id < 256) : (s.encodeTile id).mem.Ok :=
  h.writeRange fun k hk => by simp only [InMap, ptBase, atBase]; omega

theorem State.memOk_packSuper {k : Nat} (h : s.mem.Ok) (hk : k < 16) : (s.packSuper k).mem.Ok :=
  h.write (by simp only [InMap]; omega) fun _ => attrByte_mask _ _ _ _

theorem State.memOk_registerAll (h : s.mem.Ok) : s.registerAll.mem.Ok :=
  foldl_range_induction (P := fun _ u => u.mem.Ok) 256 h fun _ _ hk hu => State.memOk_registerTile hu hk

theorem State.memOk_encodeAll (h : s.mem.Ok) (hcount : s.regCount ≤ 256) : s.encodeAll.mem.Ok :=
  foldl_range_induction (P := fun _ u => u.mem.Ok) s.regCount h fun _ _ hk hu => State.memOk_encodeTile hu (by omega)

theorem State.memOk_packAll (h : s.mem.Ok) : s.packAll.mem.Ok :=
  foldl_range_induction (P := fun _ u => u.mem.Ok) 16 h fun _ _ hk hu => State.memOk_packSuper hu hk

theorem State.memOk_pipeline (h : s.mem.Ok) : s.pipeline.mem.Ok := by
  have hstart : s.startRun.mem.Ok := h.forget ptBase 4096
  have hcount : s.startRun.registerAll.regCount ≤ 256 := (State.registerAll_registered s.startRun_regTile).count
  have hencode : s.startRun.registerAll.encodeAll.mem.Ok := State.memOk_encodeAll (State.memOk_registerAll hstart) hcount
  rw [s.pipeline_eq_phases]
  apply State.memOk_packAll
  rw [State.classifyAll_mem]
  exact hencode

/-- A command that passes its checks keeps memory canonical, inside the map, and AT as R161 says. -/
theorem effectOf_memOk (h : s.mem.Ok) (hcheck : checkOf i s = none) : (effectOf i s).mem.Ok := by
  cases i with
  | nop | chkdim | validate _ | pack8 => exact h
  | clear => exact ((h.forget ntBase 256).forget atBase 16).forget ptBase 4096
  | run =>
    rw [effectOf, State.finish_mem]
    exact State.memOk_pipeline h
  | register n =>
    rw [effectOf, State.finish_mem]
    exact State.memOk_registerTile h n.isLt
  | encode id =>
    rw [effectOf, State.finish_mem]
    exact State.memOk_encodeTile h id.isLt
  | classify b =>
    rw [effectOf, State.finish_mem, State.classifyBlock_mem]
    exact h
  | packattr k =>
    rw [effectOf, State.finish_mem]
    exact State.memOk_packSuper h (requireBelow_eq_none.mp hcheck)

/-! ### The error record (R206, R210) -/

theorem State.errorOk_of_quiet (hs : s.engine = .idle ∨ s.engine = .done) (he : s.err = ErrRecord.zero)
    (hc : s.errCmd = 0) : s.ErrorOk where
  quiet _ := ⟨he, hc⟩
  recorded herr := by rcases hs with hs | hs <;> rw [hs] at herr <;> cases herr
  running hb := by rcases hs with hs | hs <;> rw [hs] at hb <;> cases hb

theorem State.errorOk_enterError {r : ErrRecord} (h : r.code ≠ .noError) : (s.enterError r).ErrorOk where
  quiet hs := by rcases hs with hs | hs <;> cases hs
  recorded _ := h
  running hb := by cases hb

/-- No command but CLEAR writes ERR or ERR_CMD, unless it ends with an error (R206). -/
theorem effectOf_err_errCmd (h : i ≠ .clear) : (effectOf i s).err = s.err ∧ (effectOf i s).errCmd = s.errCmd := by
  cases i with
  | clear => exact absurd rfl h
  | nop | chkdim | validate _ | pack8 | register _ | encode _ => exact ⟨rfl, rfl⟩
  | run =>
    rw [effectOf, State.finish_err, State.finish_errCmd, s.pipeline_eq]
    exact ⟨rfl, rfl⟩
  | classify b =>
    rw [effectOf, State.finish_err, State.finish_errCmd, State.classifyBlock_err, State.classifyBlock_errCmd]
    exact ⟨rfl, rfl⟩
  | packattr k =>
    rw [effectOf, State.finish_err, State.finish_errCmd, State.packSuper_err, State.packSuper_errCmd]
    exact ⟨rfl, rfl⟩

theorem effectOf_engine_done (hnop : i ≠ .nop) (hclear : i ≠ .clear) : (effectOf i s).engine = .done := by
  rw [effectOf_engine]
  split
  · exact absurd rfl hnop
  · exact absurd rfl hclear
  · rfl

/-- The completion of a command keeps the error record: NOP is never in flight, and with another command than CLEAR in
flight no error is recorded. -/
theorem exec_errorOk (h : s.ErrorOk) (hb : s.engine = .busy) (hd : decode s.inflight = .command i)
    (hnext : exec i s = .next t) : t.ErrorOk := by
  obtain ⟨hinflight, hquiet⟩ := h.running hb
  have hnop : i ≠ .nop := by
    rintro rfl
    exact hinflight (encode_of_decode hd).symm
  rcases exec_next hnext with ⟨-, rfl⟩ | ⟨r, hcheck, rfl⟩
  · by_cases hclear : i = .clear
    · subst hclear
      exact State.errorOk_of_quiet (.inl s.clearEngine_engine) s.clearEngine_err s.clearEngine_errCmd
    · have hword : s.inflight ≠ encode .clear := by
        intro heq
        rw [heq, decode_encode rfl] at hd
        exact hclear (Decoded.command.inj hd).symm
      obtain ⟨herr, hcmd⟩ := hquiet hword
      obtain ⟨herr', hcmd'⟩ := effectOf_err_errCmd (s := s) hclear
      exact State.errorOk_of_quiet (.inr (effectOf_engine_done hnop hclear)) (herr'.trans herr) (hcmd'.trans hcmd)
  · exact State.errorOk_enterError (checkOf_error_code_ne_noError hcheck)

/-! ### The fields the invariant speaks of -/

/-- The part of the state that the invariant speaks of. -/
def State.invView (s : State) : Memory × List Tile × ColourTable × EngineState × ErrRecord × Word × Word :=
  (s.mem, s.regTile, s.colours, s.engine, s.err, s.errCmd, s.inflight)

theorem State.Inv.of_invView_eq (h : s.Inv) (hv : t.invView = s.invView) : t.Inv := by
  simp only [State.invView, Prod.mk.injEq] at hv
  obtain ⟨hm, hr, hc, he, herr, hcmd, hw⟩ := hv
  refine State.inv_of_memory (hm ▸ h.memory) (h.registry.of_regTile_eq hr hc) ?_
  obtain ⟨hquiet, hrecorded, hrunning⟩ := h.errors
  exact ⟨by rwa [he, herr, hcmd], by rwa [he, herr], by rwa [he, herr, hcmd, hw]⟩

/-! ### The completion (R170) -/

theorem State.Inv.exec (h : s.Inv) (hb : s.engine = .busy) (hd : decode s.inflight = .command i)
    (hnext : exec i s = .next t) : t.Inv := by
  refine State.inv_of_memory ?_ (exec_registryOk h.registry hnext) (exec_errorOk h.errors hb hd hnext)
  rcases exec_next hnext with ⟨hcheck, rfl⟩ | ⟨r, -, rfl⟩
  · exact effectOf_memOk h.memory hcheck
  · exact h.memory

theorem State.Inv.enterError {r : ErrRecord} (h : s.Inv) (hr : r.code ≠ .noError) : (s.enterError r).Inv :=
  State.inv_of_memory h.memory (h.registry.of_regTile_eq rfl rfl) (State.errorOk_enterError hr)

theorem State.Inv.complete (h : s.Inv) (hb : s.engine = .busy) (hnext : s.complete = .next t) : t.Inv := by
  rcases s.complete_cases with ⟨i, hd, hc⟩ | ⟨r, hr, hc⟩
  · exact h.exec hb hd (hc.symm.trans hnext)
  · cases hc.symm.trans hnext
    exact h.enterError hr

/-! ### The host's move (R50, R230) -/

/-- A command accepted while IDLE or DONE finds no error recorded; while ERROR only CLEAR is accepted (R61). -/
theorem State.Inv.accept {w : Word} (h : s.Inv) (hnop : w ≠ encode .nop)
    (he : s.engine = .idle ∨ s.engine = .done ∨ (s.engine = .error ∧ w = encode .clear)) : (s.accept w).Inv := by
  refine State.inv_of_memory h.memory (h.registry.of_regTile_eq rfl rfl) ⟨?_, ?_, fun _ => ⟨hnop, fun hclear => ?_⟩⟩
  · rintro (hs | hs) <;> cases hs
  · intro hs
    cases hs
  · rcases he with hs | hs | ⟨-, hw⟩
    · exact h.errors.quiet (.inl hs)
    · exact h.errors.quiet (.inr hs)
    · exact absurd hw hclear

theorem State.Inv.submit {w : Word} (h : s.Inv) (hnext : s.submit w = .next t) : t.Inv := by
  rcases s.submit_cases w with ⟨hs, -⟩ | ⟨hs, -⟩ | ⟨hs, hnop, he⟩ <;> cases hs.symm.trans hnext
  · exact h.of_invView_eq rfl
  · exact h
  · exact h.accept hnop he

theorem State.Inv.hostStore (h : s.Inv) (off : Offset) (v : Word) : (s.hostStore (portOf off) v).Inv := by
  rcases s.hostStore_cases (portOf off) v with hs | ⟨-, hinput⟩ | ⟨-, hs⟩
  · rw [hs]
    exact h.of_invView_eq rfl
  · rcases hinput with ⟨i, hp, hs⟩ | ⟨-, hs⟩ | ⟨-, hs⟩ | ⟨k, -, hs⟩ <;> rw [hs]
    · obtain ⟨rfl, hlt⟩ := portOf_eq_pixmem hp
      have hstore : (Memory.writeWord s.mem (4 * (off.toNat / 4)) v).Ok :=
        h.memory.writeRange fun k hk => by simp only [InMap, atBase]; omega
      exact State.inv_of_memory hstore (h.registry.of_regTile_eq rfl rfl)
        ⟨h.errors.quiet, h.errors.recorded, h.errors.running⟩
    · exact h.of_invView_eq rfl
    · exact h.of_invView_eq rfl
    · exact h.of_invView_eq rfl
  · rw [hs]
    exact h

theorem State.Inv.pollOnce (h : s.Inv) : s.pollOnce.Inv := by
  rcases s.pollOnce_cases with hs | hs <;> rw [hs]
  · exact h.of_invView_eq rfl
  · exact h.of_invView_eq rfl

theorem State.hardReset_inv (s : State) : s.hardReset.Inv :=
  State.inv_of_memory Memory.ok_nil (State.registryOk_of_regTile_eq_nil rfl) (State.errorOk_of_quiet (.inl rfl) rfl rfl)

theorem State.Inv.hostMove {m : HostMove} (h : s.Inv) (hnext : s.hostMove m = .next t) : t.Inv := by
  rcases s.hostMove_cases m with
    ⟨off, -, hs⟩ | ⟨-, hs⟩ | ⟨-, hs⟩ | ⟨off, v, -, -, hs⟩ | ⟨off, w, -, -, hs⟩ <;> rw [hs] at hnext
  · cases hnext
    exact h.of_invView_eq rfl
  · cases hnext
    exact h.pollOnce
  · cases hnext
    exact s.hardReset_inv
  · cases hnext
    exact h.hostStore off v
  · exact h.submit hnext

/-! ### The obligations -/

/-- Settles O54: the empty memory, the empty registry and no error. -/
theorem invariantAtReset : Obligations.InvariantAtReset :=
  State.inv_of_memory Memory.ok_nil (State.registryOk_of_regTile_eq_nil rfl) (State.errorOk_of_quiet (.inl rfl) rfl rfl)

/-- Settles O55: a step is a completion, a move of the host, or nothing, and each keeps the invariant. -/
theorem everyStepKeepsTheInvariant : Obligations.EveryStepKeepsTheInvariant := by
  intro s t h hnext
  rcases step_cases s with ⟨hdue, hs⟩ | ⟨m, rest, -, hs⟩ | ⟨-, -, hs⟩
  · exact h.complete (State.engine_of_completionDue hdue) (hs.symm.trans hnext)
  · have htake : (s.takeMove rest).Inv := h.of_invView_eq rfl
    exact htake.hostMove (hs.symm.trans hnext)
  · cases hs.symm.trans hnext
    exact h

end Sys2Proof.Machine
end
